-- ==== Sys2Proof/Word.lean ====
section
/-! DEFINITION. The words of the machine: bytes, 16-bit words, 12-bit addresses and register numbers (spec/00_scope.md
R6, R8, R9). Every value is unsigned. -/

namespace Sys2Proof

/-- An 8-bit value: a memory byte, a `V` register, a timer, an immediate `NN` (R6, R21, R93). -/
abbrev Byte := BitVec 8

/-- A 16-bit value: `I`, `PC`, a stack slot, an opcode (R6, R23, R24, R90). -/
abbrev Word := BitVec 16

/-- A 12-bit value: a memory address after masking (R60, R61), or an immediate `NNN` (R91). -/
abbrev Addr := BitVec 12

/-- The number of a general register, selected by a 4-bit field of the opcode (R21). -/
abbrev Reg := Fin 16

/-- The index of a key, 0x0 to 0xF (R27). -/
abbrev Key := Fin 16

end Sys2Proof
end

