-- ==== Sys2Proof/Syntax.lean ====
section
/-! DEFINITION. The 35 instructions, one constructor per row of spec/30_encoding.md R94 (spec/opcode_table.json), in the
table's order. Operand fields are those the row's pattern carries (R91, R92), also the ones its effect ignores (R98). -/

namespace Sys2Proof

/-- An instruction (R94). `x` and `y` are register numbers, `n` the low nibble, `nn` the low byte, `nnn` the low 12
bits. -/
inductive Instr where
  /-- 00E0 -/
  | cls
  /-- 00EE -/
  | ret
  /-- 0NNN; `nnn` is ignored (R98) -/
  | sys (nnn : Addr)
  /-- 1NNN -/
  | jp (nnn : Addr)
  /-- 2NNN -/
  | call (nnn : Addr)
  /-- 3XNN -/
  | seVxNn (x : Reg) (nn : Byte)
  /-- 4XNN -/
  | sneVxNn (x : Reg) (nn : Byte)
  /-- 5XY0 -/
  | seVxVy (x y : Reg)
  /-- 6XNN -/
  | ldVxNn (x : Reg) (nn : Byte)
  /-- 7XNN -/
  | addVxNn (x : Reg) (nn : Byte)
  /-- 8XY0 -/
  | ldVxVy (x y : Reg)
  /-- 8XY1 -/
  | orVxVy (x y : Reg)
  /-- 8XY2 -/
  | andVxVy (x y : Reg)
  /-- 8XY3 -/
  | xorVxVy (x y : Reg)
  /-- 8XY4 -/
  | addVxVy (x y : Reg)
  /-- 8XY5 -/
  | sub (x y : Reg)
  /-- 8XY6; `y` is ignored (R98) -/
  | shr (x y : Reg)
  /-- 8XY7 -/
  | subn (x y : Reg)
  /-- 8XYE; `y` is ignored (R98) -/
  | shl (x y : Reg)
  /-- 9XY0 -/
  | sneVxVy (x y : Reg)
  /-- ANNN -/
  | ldINnn (nnn : Addr)
  /-- BNNN -/
  | jpV0 (nnn : Addr)
  /-- CXNN -/
  | rnd (x : Reg) (nn : Byte)
  /-- DXYN; `n` is the number of sprite rows -/
  | drw (x y : Reg) (n : BitVec 4)
  /-- EX9E -/
  | skp (x : Reg)
  /-- EXA1 -/
  | sknp (x : Reg)
  /-- FX07 -/
  | ldVxDt (x : Reg)
  /-- FX0A -/
  | ldVxK (x : Reg)
  /-- FX15 -/
  | ldDtVx (x : Reg)
  /-- FX18 -/
  | ldStVx (x : Reg)
  /-- FX1E -/
  | addIVx (x : Reg)
  /-- FX29 -/
  | ldFVx (x : Reg)
  /-- FX33 -/
  | ldBVx (x : Reg)
  /-- FX55 -/
  | stV0Vx (x : Reg)
  /-- FX65 -/
  | ldV0Vx (x : Reg)
deriving DecidableEq, Repr

end Sys2Proof
end

