-- ==== Sys2Proof/WellFormed.lean ====
section
/-! DEFINITION. Which instructions have an encoding of their own. The field types already bound every operand; the one
further condition of spec/30_encoding.md R94 row 3 and R96 is that 0NNN is not 00E0 and not 00EE. -/

namespace Sys2Proof

/-- `i` is the instruction its own encoding stands for. Only `sys` can fail: the words 0x00E0 and 0x00EE are CLS and
RET (R95, R96). -/
def Instr.wf : Instr → Bool
  | .sys nnn => nnn != 0x0E0#12 && nnn != 0x0EE#12
  | .cls | .ret => true
  | .jp _ | .call _ | .ldINnn _ | .jpV0 _ => true
  | .seVxNn _ _ | .sneVxNn _ _ | .ldVxNn _ _ | .addVxNn _ _ | .rnd _ _ => true
  | .seVxVy _ _ | .ldVxVy _ _ | .orVxVy _ _ | .andVxVy _ _ | .xorVxVy _ _ => true
  | .addVxVy _ _ | .sub _ _ | .shr _ _ | .subn _ _ | .shl _ _ | .sneVxVy _ _ => true
  | .drw _ _ _ => true
  | .skp _ | .sknp _ | .ldVxDt _ | .ldVxK _ | .ldDtVx _ | .ldStVx _ => true
  | .addIVx _ | .ldFVx _ | .ldBVx _ | .stV0Vx _ | .ldV0Vx _ => true

end Sys2Proof
end

