-- ==== Sys2Proof/Decode.lean ====
section
/-! DEFINITION. The decoder, total on all 65536 words (spec/30_encoding.md R90 to R100), and after it the encoder,
written from the bit layouts of R92 and R94. -/

namespace Sys2Proof

/-- Why bytes are no instruction. -/
inductive DecodeError where
  /-- fewer than the two bytes every instruction has (R90) -/
  | truncated
  /-- the word matches no row of R94: an unknown opcode (R97) -/
  | unknownOpcode (op : Word)
deriving DecidableEq, Repr

/-- The opcode of two consecutive bytes, the first of them the high one (R63). -/
def opcodeOf (hi lo : Byte) : Word := hi ++ lo

/-- The high byte of an opcode, stored at the lower address (R63, R104). -/
def highByte (op : Word) : Byte := op.extractLsb' 8 8

/-- The low byte of an opcode, stored at the higher address (R63, R104). -/
def lowByte (op : Word) : Byte := op.extractLsb' 0 8

/-! The fields of R91. -/

/-- The operation family `op[15:12]` (R91). -/
def fieldFamily (op : Word) : BitVec 4 := op.extractLsb' 12 4

/-- `X = op[11:8]` (R91). -/
def fieldX (op : Word) : Reg := (op.extractLsb' 8 4).toFin

/-- `Y = op[7:4]` (R91). -/
def fieldY (op : Word) : Reg := (op.extractLsb' 4 4).toFin

/-- `N = op[3:0]` (R91). -/
def fieldN (op : Word) : BitVec 4 := op.extractLsb' 0 4

/-- `NN = op[7:0]` (R91). -/
def fieldNN (op : Word) : Byte := op.extractLsb' 0 8

/-- `NNN = op[11:0]` (R91). -/
def fieldNNN (op : Word) : Addr := op.extractLsb' 0 12

/-- Family 0x0, by the low 12 bits: 00E0 and 00EE win, every other word is 0NNN (R95, R96). -/
def decodeFamily0 (op : Word) : Instr :=
  if fieldNNN op = 0x0E0#12 then .cls
  else if fieldNNN op = 0x0EE#12 then .ret
  else .sys (fieldNNN op)

/-- Family 0x8, by the low nibble (R95). -/
def decodeFamily8 (op : Word) : Except DecodeError Instr :=
  match fieldN op with
  | 0x0#4 => .ok (.ldVxVy (fieldX op) (fieldY op))
  | 0x1#4 => .ok (.orVxVy (fieldX op) (fieldY op))
  | 0x2#4 => .ok (.andVxVy (fieldX op) (fieldY op))
  | 0x3#4 => .ok (.xorVxVy (fieldX op) (fieldY op))
  | 0x4#4 => .ok (.addVxVy (fieldX op) (fieldY op))
  | 0x5#4 => .ok (.sub (fieldX op) (fieldY op))
  | 0x6#4 => .ok (.shr (fieldX op) (fieldY op))
  | 0x7#4 => .ok (.subn (fieldX op) (fieldY op))
  | 0xE#4 => .ok (.shl (fieldX op) (fieldY op))
  | _ => .error (.unknownOpcode op)

/-- Family 0xE, by the low byte (R95). -/
def decodeFamilyE (op : Word) : Except DecodeError Instr :=
  match fieldNN op with
  | 0x9E#8 => .ok (.skp (fieldX op))
  | 0xA1#8 => .ok (.sknp (fieldX op))
  | _ => .error (.unknownOpcode op)

/-- Family 0xF, by the low byte (R95). -/
def decodeFamilyF (op : Word) : Except DecodeError Instr :=
  match fieldNN op with
  | 0x07#8 => .ok (.ldVxDt (fieldX op))
  | 0x0A#8 => .ok (.ldVxK (fieldX op))
  | 0x15#8 => .ok (.ldDtVx (fieldX op))
  | 0x18#8 => .ok (.ldStVx (fieldX op))
  | 0x1E#8 => .ok (.addIVx (fieldX op))
  | 0x29#8 => .ok (.ldFVx (fieldX op))
  | 0x33#8 => .ok (.ldBVx (fieldX op))
  | 0x55#8 => .ok (.stV0Vx (fieldX op))
  | 0x65#8 => .ok (.ldV0Vx (fieldX op))
  | _ => .error (.unknownOpcode op)

/-- The instruction of a word, or the reason it is none: dispatch by the high nibble, then by the low nibble or the low
byte where the family holds several instructions (R94, R95, R97). -/
def decode (op : Word) : Except DecodeError Instr :=
  match fieldFamily op with
  | 0x0#4 => .ok (decodeFamily0 op)
  | 0x1#4 => .ok (.jp (fieldNNN op))
  | 0x2#4 => .ok (.call (fieldNNN op))
  | 0x3#4 => .ok (.seVxNn (fieldX op) (fieldNN op))
  | 0x4#4 => .ok (.sneVxNn (fieldX op) (fieldNN op))
  | 0x5#4 => if fieldN op = 0x0#4 then .ok (.seVxVy (fieldX op) (fieldY op)) else .error (.unknownOpcode op)
  | 0x6#4 => .ok (.ldVxNn (fieldX op) (fieldNN op))
  | 0x7#4 => .ok (.addVxNn (fieldX op) (fieldNN op))
  | 0x8#4 => decodeFamily8 op
  | 0x9#4 => if fieldN op = 0x0#4 then .ok (.sneVxVy (fieldX op) (fieldY op)) else .error (.unknownOpcode op)
  | 0xA#4 => .ok (.ldINnn (fieldNNN op))
  | 0xB#4 => .ok (.jpV0 (fieldNNN op))
  | 0xC#4 => .ok (.rnd (fieldX op) (fieldNN op))
  | 0xD#4 => .ok (.drw (fieldX op) (fieldY op) (fieldN op))
  | 0xE#4 => decodeFamilyE op
  | 0xF#4 => decodeFamilyF op
  | _ => .error (.unknownOpcode op)

/-- The instruction at the front of a list of bytes, and the bytes after it. Total on any bytes (R90, R100). -/
def decodeBytes : List Byte → Except DecodeError (Instr × List Byte)
  | hi :: lo :: rest =>
    match decode (opcodeOf hi lo) with
    | .ok i => .ok (i, rest)
    | .error e => .error e
  | _ => .error .truncated

/-! The encoder. -/

/-- A register number as the 4-bit field that selects it (R21). -/
def regField (r : Reg) : BitVec 4 := .ofFin r

/-- Format NNN: family, then 12 bits (R92). -/
def encodeNNN (family : BitVec 4) (nnn : Addr) : Word := family ++ nnn

/-- Formats XNN and XFN: family, register, then 8 bits (R92). -/
def encodeXNN (family : BitVec 4) (x : Reg) (nn : Byte) : Word := family ++ (regField x ++ nn)

/-- Format XYN: family, two registers, then 4 bits (R92). -/
def encodeXYN (family : BitVec 4) (x y : Reg) (n : BitVec 4) : Word :=
  family ++ (regField x ++ (regField y ++ n))

/-- The word of an instruction (R92, R94). The ignored fields are encoded as the instruction carries them (R98). -/
def encode : Instr → Word
  | .cls => 0x00E0#16
  | .ret => 0x00EE#16
  | .sys nnn => encodeNNN 0x0#4 nnn
  | .jp nnn => encodeNNN 0x1#4 nnn
  | .call nnn => encodeNNN 0x2#4 nnn
  | .seVxNn x nn => encodeXNN 0x3#4 x nn
  | .sneVxNn x nn => encodeXNN 0x4#4 x nn
  | .seVxVy x y => encodeXYN 0x5#4 x y 0x0#4
  | .ldVxNn x nn => encodeXNN 0x6#4 x nn
  | .addVxNn x nn => encodeXNN 0x7#4 x nn
  | .ldVxVy x y => encodeXYN 0x8#4 x y 0x0#4
  | .orVxVy x y => encodeXYN 0x8#4 x y 0x1#4
  | .andVxVy x y => encodeXYN 0x8#4 x y 0x2#4
  | .xorVxVy x y => encodeXYN 0x8#4 x y 0x3#4
  | .addVxVy x y => encodeXYN 0x8#4 x y 0x4#4
  | .sub x y => encodeXYN 0x8#4 x y 0x5#4
  | .shr x y => encodeXYN 0x8#4 x y 0x6#4
  | .subn x y => encodeXYN 0x8#4 x y 0x7#4
  | .shl x y => encodeXYN 0x8#4 x y 0xE#4
  | .sneVxVy x y => encodeXYN 0x9#4 x y 0x0#4
  | .ldINnn nnn => encodeNNN 0xA#4 nnn
  | .jpV0 nnn => encodeNNN 0xB#4 nnn
  | .rnd x nn => encodeXNN 0xC#4 x nn
  | .drw x y n => encodeXYN 0xD#4 x y n
  | .skp x => encodeXNN 0xE#4 x 0x9E#8
  | .sknp x => encodeXNN 0xE#4 x 0xA1#8
  | .ldVxDt x => encodeXNN 0xF#4 x 0x07#8
  | .ldVxK x => encodeXNN 0xF#4 x 0x0A#8
  | .ldDtVx x => encodeXNN 0xF#4 x 0x15#8
  | .ldStVx x => encodeXNN 0xF#4 x 0x18#8
  | .addIVx x => encodeXNN 0xF#4 x 0x1E#8
  | .ldFVx x => encodeXNN 0xF#4 x 0x29#8
  | .ldBVx x => encodeXNN 0xF#4 x 0x33#8
  | .stV0Vx x => encodeXNN 0xF#4 x 0x55#8
  | .ldV0Vx x => encodeXNN 0xF#4 x 0x65#8

/-- The bytes of an instruction as memory holds them, high byte first (R63, R104). -/
def encodeBytes (i : Instr) : List Byte := [highByte (encode i), lowByte (encode i)]

/-- The 16-bit word the opcode table writes as `w` in `nbits` bits; the bits above `nbits` are 0. -/
def tableWord (nbits w : Nat) : Word := BitVec.ofNat 16 (w % 2 ^ nbits)

/-- The instruction the decoder reads from the table's word `w`, laid out in bytes as memory holds it (R63). -/
def decodeTableWord (nbits w : Nat) : Option Instr :=
  match decodeBytes [highByte (tableWord nbits w), lowByte (tableWord nbits w)] with
  | .ok (i, _) => some i
  | .error _ => none

end Sys2Proof
end

