-- ==== Sys2Proof/Config.lean ====
section
/-! DEFINITION. What an implementation fixes: the parameters of spec/00_scope.md R6 and R7, and the free values of the
model, which are constants WITHOUT a body, so that nothing can evaluate them. -/

namespace Sys2Proof

/-- MEM_SIZE: bytes of main memory (R6, R60). -/
abbrev Config.memSize : Nat := 4096

/-- STACK_DEPTH: how many return addresses the stack holds (R6, R25, C5). -/
abbrev Config.stackDepth : Nat := 16

/-- FONT_BYTES: the font table occupies addresses 0 to 79 (R6, R75). -/
abbrev Config.fontBytes : Nat := 80

/-- GLYPH_BYTES: bytes of one glyph (R6, R193). -/
abbrev Config.glyphBytes : Nat := 5

/-- PROGRAM_BASE: load address and reset value of `PC` (R6, R66). -/
abbrev Config.programBase : Nat := 0x200

/-- ROM_MAX: the longest program `LoadProgram` accepts (R6, R291). -/
abbrev Config.romMax : Nat := 3584

/-- DISP_W: display columns (R6, R210). -/
abbrev Config.dispW : Nat := 64

/-- DISP_H: display rows (R6, R210). -/
abbrev Config.dispH : Nat := 32

/-- SPRITE_W: columns of a sprite (R6, R210). -/
abbrev Config.spriteW : Nat := 8

/-- The settings of `TIMER_COUPLING` (R7, R127, R265). -/
inductive TimerCoupling where
  /-- `TimerTick` is an operation of its own between cycles. -/
  | decoupled
  /-- exactly one `TimerTick` directly after every cycle that is not halted and did not fault. -/
  | perCycle
deriving DecidableEq, Repr

/-- The spec's setting of `TIMER_COUPLING` (R7, D1; log 9). -/
def Config.timerCoupling : TimerCoupling := .decoupled

/-- The settings of `KEY_SELECT`: which pressed key FX0A reports when several are pressed (R7, R233). -/
inductive KeySelect where
  | lowest
  | highest
  /-- any member of the pressed keys: a free choice. -/
  | any
deriving DecidableEq, Repr

/-- `KEY_SELECT` as the spec asks a model to take it (R7, R233 (e); log 4). -/
def Config.keySelect : KeySelect := .any

/-- `FONT`: byte `n` (0 to 79) of the font table. The source does not give the bytes (R7 OPEN, R75, D25), so this is a
constant without a body (log 5). -/
opaque Config.font : Nat → Byte

/-- FREE VALUE: the byte the random source answers to draw number `n` (R173, R273; log 3). -/
opaque Config.randomByte : Nat → Byte

/-- FREE VALUE: the choice made at draw number `n` among the keys down, for `KEY_SELECT = any` (R129, R233 (e); log 4).
The model reduces it modulo the number of keys, so it always names one of them. -/
opaque Config.keyChoice : Nat → List Key → Nat

end Sys2Proof
end

