-- ==== Sys2Proof/Machine/State.lean ====
section
/-! DEFINITION. The state of the machine (spec/10_state.md R20), its reset value (R36), and the two reason types of an
outcome. -/

namespace Sys2Proof.Machine

/-- The causes of a stack fault (R31); they have names only, no codes (D27). -/
inductive FaultCause where
  /-- 2NNN executed with `SP = 16` (R250) -/
  | stackOverflow
  /-- 00EE executed with `SP = 0` (R251) -/
  | stackUnderflow
deriving DecidableEq, Repr

/-- What `LoadProgram` answers its caller (R254, R291). -/
inductive LoadResult where
  | ok
  | loadError
deriving DecidableEq, Repr

/-- What an operation hands to the host besides the state (R130, R253, R254). -/
inductive Output where
  /-- the diagnostic event: the opcode as fetched and the unmasked `PC` it was fetched at (R253) -/
  | unknownOpcode (op : Word) (pc0 : Word)
  /-- the answer of a `LoadProgram` (R291) -/
  | loadResult (r : LoadResult)
deriving DecidableEq, Repr

/-- The operations of the three agents, each one atomic transition (R5, R268). -/
inductive AgentOp where
  /-- Core: one fetch-decode-execute step (R120) -/
  | cycle
  /-- Timer Clock: one decrement step of both timers (R263) -/
  | timerTick
  /-- Host: reset (R290) -/
  | initializeState
  /-- Host: load a program at 0x200 (R291) -/
  | loadProgram (bytes : List Byte)
  /-- Host: report key `k` pressed or released (R270) -/
  | setKey (k : Key) (down : Bool)
  /-- Host: clear `redrawPending` (R271) -/
  | clearRedraw
  /-- Host: clear `buzzerRequested` (R272) -/
  | clearBuzzer
deriving DecidableEq, Repr

/-- Main memory (R32, R60): the bytes that differ from their reset content, by rising address. `Memory.wf` in Ops.lean
is this form. -/
structure Memory where
  cells : List Host.Cell
deriving DecidableEq, Repr

/-- The display: 32 rows of 64 cells; cell `(x, y)` is `display[y][x]` (R28, R210). -/
abbrev Display := Vector (Vector Bool 64) 32

/-- The state of the core (R20), then the three fields that are the model's own. -/
structure State where
  /-- main memory (R32) -/
  memory : Memory
  /-- V0 to VF (R21) -/
  v : Vector Byte 16
  /-- the address register `I` (R24) -/
  i : Word
  /-- the program counter `PC` (R23) -/
  pc : Word
  /-- the 16 stack slots (R25) -/
  stack : Vector Word 16
  /-- `SP`, 0 to 16: the next free slot (R25) -/
  sp : Fin 17
  /-- `delayTimer` (R26) -/
  dt : Byte
  /-- `soundTimer` (R26) -/
  st : Byte
  /-- `keypad[k]`: key `k` is pressed (R27) -/
  keypad : Vector Bool 16
  /-- the display buffer (R28) -/
  display : Display
  /-- (R29) -/
  redrawPending : Bool
  /-- (R30) -/
  buzzerRequested : Bool
  /-- `none` while the machine runs; a cause while it is halted (R31) -/
  fault : Option FaultCause
  /-- MODEL's own (log 3): how many free values have been drawn -/
  draws : Nat
  /-- MODEL's own (log 1): the operations the agents perform next, oldest first; a cycle when empty -/
  schedule : List AgentOp
  /-- MODEL's own (log 2): what the host has been handed, oldest first -/
  outputs : List Output
deriving DecidableEq, Repr

/-- The state after `Initialize` (R36, R290). Memory lists nothing: every address reads as its reset content, the font
table at 0x000 to 0x04F and zero above (`Memory.resetByte`). The spec gives every value but those of the last three
fields, which are the model's (log 1, 2, 3). -/
def State.reset : State where
  memory := ⟨[]⟩
  v := Vector.replicate 16 0
  i := 0
  pc := 0x200
  stack := Vector.replicate 16 0
  sp := 0
  dt := 0
  st := 0
  keypad := Vector.replicate 16 false
  display := Vector.replicate 32 (Vector.replicate 64 false)
  redrawPending := false
  buzzerRequested := false
  fault := none
  draws := 0
  schedule := []
  outputs := []

/-- Why a step ends in a fault. The machine has no such step: its two stack faults are NEXT states in which
`State.fault` is set and the core is halted (R252, R120; log 7), and nothing else faults (R255). So no constructor, and
no one raises it. -/
inductive Fault where
deriving DecidableEq, Repr

/-- Why a step ends in a refusal. -/
inductive Refusal where
  /-- raised by an arm of `exec` whose instruction has no meaning yet (safe: the machine stops where the hardware goes
  on). No arm raises it now. -/
  | notModelled (mnemonic : String)
deriving DecidableEq, Repr

/-- The outcome of an operation of this machine. -/
abbrev Result := Host.Outcome State Fault Refusal

end Sys2Proof.Machine
end

