-- ==== Sys2Proof/Machine/Ops.lean ====
section
/-! DEFINITION. The named operations over memory, registers, the stack, the keypad and the display; taking a fault and
the way back from one. The meanings of the instruction families are written over these. -/

namespace Sys2Proof.Machine

/-! Memory (spec/20_memory.md). -/

/-- Byte `n` of the font table: the parameter `FONT`, which the spec leaves open (R7, R75, D25; log 5). -/
def Memory.fontByte (n : Nat) : Byte := Config.font n

/-- What an address reads as after reset: the font table below 80, zero above (R36, R66, R75; log 6). -/
def Memory.resetByte (a : Nat) : Byte := if a < Config.fontBytes then fontByte a else 0

/-- The byte at key `a` of cells with rising keys. -/
def Memory.lookup (a : Nat) : List Host.Cell → Byte
  | [] => resetByte a
  | (b, w) :: rest => if a = b then w else if a < b then resetByte a else lookup a rest

/-- Put byte `v` at key `a`, keeping keys rising and listing nothing that equals its reset content. -/
def Memory.insert (a : Nat) (v : Byte) : List Host.Cell → List Host.Cell
  | [] => if v = resetByte a then [] else [(a, v)]
  | (b, w) :: rest =>
    if a = b then (if v = resetByte a then rest else (a, v) :: rest)
    else if a < b then (if v = resetByte a then (b, w) :: rest else (a, v) :: (b, w) :: rest)
    else (b, w) :: insert a v rest

/-- `MemRead(a, 1)` (R62). -/
def Memory.read (m : Memory) (a : Addr) : Byte := lookup a.toNat m.cells

/-- `MemWrite(a, 1, v)` (R62). -/
def Memory.write (m : Memory) (a : Addr) (v : Byte) : Memory := ⟨insert a.toNat v m.cells⟩

/-- The canonical form: keys strictly rising and below 4096, no byte equal to its address's reset content. -/
abbrev Memory.wf (m : Memory) : Prop :=
  m.cells.Pairwise (fun p q => p.1 < q.1) ∧ ∀ c ∈ m.cells, c.1 < Config.memSize ∧ c.2 ≠ resetByte c.1

/-- Write bytes at consecutive addresses from `a` upward (R291). -/
def Memory.writeBytes (a : Addr) : List Byte → Memory → Memory
  | [], m => m
  | b :: bs, m => writeBytes (a + 1) bs (m.write a b)

/-- The byte at `a` (R62). -/
def State.readMem (s : State) (a : Addr) : Byte := s.memory.read a

/-- Store `b` at `a` (R62). -/
def State.writeMem (s : State) (a : Addr) (b : Byte) : State := { s with memory := s.memory.write a b }

/-! Registers (spec/10_state.md). -/

/-- The number of VF, the flag register (R22). -/
abbrev regF : Reg := 15

/-- `V[r]` (R21). -/
def State.reg (s : State) (r : Reg) : Byte := s.v[r.val]

/-- `V[r] <- b` (R21). -/
def State.setReg (s : State) (r : Reg) (b : Byte) : State := { s with v := s.v.set r.val b }

/-- `I <- w` (R24). -/
def State.setI (s : State) (w : Word) : State := { s with i := w }

/-- `PC <- w`, all 16 bits (R23). -/
def State.setPc (s : State) (w : Word) : State := { s with pc := w }

/-- `PC <- (PC + 2) mod 65536`: the pre-increment (R122) and a taken skip (R140 (a)). -/
def State.advancePc (s : State) : State := s.setPc (s.pc + 2)

/-- `PC <- pc0`: undo the pre-increment of this cycle (R233). -/
def State.retreatPc (s : State) : State := s.setPc (s.pc - 2)

/-- Pass over the next instruction when `c` holds (R140 (a)). -/
def State.skipIf (s : State) (c : Bool) : State := if c then s.advancePc else s

/-- `DT <- b` (R26). -/
def State.setDt (s : State) (b : Byte) : State := { s with dt := b }

/-- `ST <- b` (R26). -/
def State.setSt (s : State) (b : Byte) : State := { s with st := b }

/-- Flag first, result second: the order of the statements in the rows 8XY4, 8XY5 and 8XY7, whose operands are captured
before either write (R11, R160, R172, D6). -/
def State.setFlagThenResult (s : State) (flag : Byte) (x : Reg) (result : Byte) : State :=
  (s.setReg regF flag).setReg x result

/-! The stack (R25), and taking a fault (spec/60_exceptions.md R252). -/

/-- FAULT ENTRY, `raise C`: `fault <- C` and nothing else; `PC` keeps the pre-incremented value, and the machine is
halted from here on (R252, R258). -/
def State.raise (s : State) (c : FaultCause) : State := { s with fault := some c }

/-- THE WAY BACK: `Initialize`, the only exit from the halted state (R259, R290). Every element of the spec's state
takes its reset value; the model's own fields, which belong to the agents and not to the core, stay (log 11). -/
def State.initializeState (s : State) : State :=
  { State.reset with draws := s.draws, schedule := s.schedule, outputs := s.outputs }

/-- `stack[SP] <- PC; SP <- SP + 1`, or `StackOverflow` before any effect when all 16 slots are taken (R144, R250). The
continuation runs when the push went through. -/
def State.pushPcThen (s : State) (next : State → State) : State :=
  if h : s.sp.val < 16 then
    next { s with stack := s.stack.set s.sp.val s.pc, sp := ⟨s.sp.val + 1, by omega⟩ }
  else s.raise .stackOverflow

/-- `SP <- SP - 1; PC <- stack[SP]`, or `StackUnderflow` before any effect when the stack is empty (R142, R251). The
slot keeps its value (R25). -/
def State.popPc (s : State) : State :=
  if h : 0 < s.sp.val then
    { s with sp := ⟨s.sp.val - 1, by omega⟩, pc := s.stack[s.sp.val - 1] }
  else s.raise .stackUnderflow

/-! Outputs and free values. -/

/-- Hand `o` to the host (R130; log 2). -/
def State.emit (s : State) (o : Output) : State := { s with outputs := s.outputs ++ [o] }

/-- `draw8()`: the free byte of this draw (R173; log 3). -/
def State.draw8 (s : State) : Byte := Config.randomByte s.draws

/-- One draw is used up (R129, R173). -/
def State.consumeDraw (s : State) : State := { s with draws := s.draws + 1 }

/-! Keypad (spec/45_keypad_timers.md). -/

/-- `keypad[k]` (R27). -/
def State.keyDown (s : State) (k : Key) : Bool := s.keypad[k.val]

/-- The keys that are down, in rising order (R233). -/
def State.keysDown (s : State) : List Key := (List.finRange 16).filter s.keyDown

/-- `select(P)` for `P = first :: others` in rising order: the lowest key, the highest, or the free choice number `n`
among them (R7 KEY_SELECT, R233 (e)). -/
def selectKey (policy : KeySelect) (n : Nat) (first : Key) (others : List Key) : Key :=
  match policy with
  | .lowest => first
  | .highest => (first :: others).getLast (List.cons_ne_nil _ _)
  | .any => (first :: others)[Config.keyChoice n (first :: others) % (others.length + 1)]'(Nat.mod_lt _ (Nat.succ_pos _))

/-! Display (spec/44_display.md). -/

/-- Cell `(x, y)` (R28, R210). -/
def displayCell (d : Display) (x : Fin 64) (y : Fin 32) : Bool := d[y.val][x.val]

/-- XOR a 1 into cell `(x, y)` (R212). -/
def flipCell (d : Display) (x : Fin 64) (y : Fin 32) : Display :=
  d.set y.val (d[y.val].set x.val (!d[y.val][x.val]))

/-- The blank display (R211). -/
def blankDisplay : Display := Vector.replicate 32 (Vector.replicate 64 false)

/-- A drawing in progress: the display so far, and whether a set sprite bit has met a cell that was 1 (R212). -/
structure Plot where
  display : Display
  collision : Bool
deriving DecidableEq, Repr

/-- XOR-plot one set sprite bit at `(x mod 64, y mod 32)`: wrapped, never clipped (R210, R212). -/
def plotPixel (p : Plot) (x y : Nat) : Plot :=
  { display := flipCell p.display (Fin.ofNat 64 x) (Fin.ofNat 32 y)
    collision := p.collision || displayCell p.display (Fin.ofNat 64 x) (Fin.ofNat 32 y) }

/-- Plot the columns listed of one sprite row: bit `7 - col` of the byte is column `col` (R210). -/
def plotColumns (b : Byte) (x0 y : Nat) : List Nat → Plot → Plot
  | [], p => p
  | col :: cols, p => plotColumns b x0 y cols (if b.getLsbD (7 - col) then plotPixel p (x0 + col) y else p)

/-- Plot the sprite rows listed: row `r` is the byte `rowByte r`, drawn at line `y0 + r` (R210, R212). -/
def plotRows (rowByte : Nat → Byte) (x0 y0 : Nat) : List Nat → Plot → Plot
  | [], p => p
  | row :: rows, p =>
    plotRows rowByte x0 y0 rows (plotColumns (rowByte row) x0 (y0 + row) (List.range Config.spriteW) p)

/-- `display <- d; redrawPending <- true`: every change of the display marks a redraw (R29, R211, R212). -/
def State.showDisplay (s : State) (d : Display) : State := { s with display := d, redrawPending := true }

end Sys2Proof.Machine
end

