-- ==== Sys2Proof/Machine/Agents.lean ====
section
/-! DEFINITION. The operations of the Timer Clock and of the Host, and the host's accessors (spec/60_exceptions.md R263 to
R272, spec/70_reset_and_hazards.md R290, R291). `Initialize` is `State.initializeState` in Ops.lean, beside fault entry. -/

namespace Sys2Proof.Machine

/-- The delay timer's half of a tick: decrement, stopping at 0 (R263). -/
def State.tickDelay (s : State) : State := if s.dt = 0 then s else s.setDt (s.dt - 1)

/-- The sound timer's half of a tick: decrement, stopping at 0; the tick from 1 to 0 requests the buzzer (R263, R264,
D4). -/
def State.tickSound (s : State) : State :=
  if s.st = 0 then s
  else { s with st := s.st - 1, buzzerRequested := s.buzzerRequested || s.st == 1 }

/-- `TimerTick` (R263). It also happens while the core is halted (R265, D26). -/
def State.timerTick (s : State) : State := s.tickDelay.tickSound

/-- `LoadProgram(bytes)`: rejected whole when longer than 3584 bytes, else the bytes go to 0x200 upward and nothing else
changes (R254, R291, C6). -/
def State.loadProgram (s : State) (bytes : List Byte) : LoadResult × State :=
  if bytes.length > Config.romMax then (.loadError, s)
  else (.ok, { s with memory := s.memory.writeBytes (BitVec.ofNat 12 Config.programBase) bytes })

/-- `SetKey(k, b)` (R270). -/
def State.setKey (s : State) (k : Key) (down : Bool) : State := { s with keypad := s.keypad.set k.val down }

/-- `ClearRedraw` (R271). -/
def State.clearRedraw (s : State) : State := { s with redrawPending := false }

/-- `ClearBuzzer` (R272). -/
def State.clearBuzzer (s : State) : State := { s with buzzerRequested := false }

/-! The accessors: what the host may read (R269). `keyDown` in Ops.lean is the accessor of the keypad. -/

/-- A cell of the display (R269). -/
def State.cell (s : State) (x : Fin 64) (y : Fin 32) : Bool := displayCell s.display x y

/-- The display as the linear buffer of 2048 cells, cell `(x, y)` at index `y * 64 + x` (R28, D14). -/
def State.displayBuffer (s : State) : List Bool := (s.display.toList.map Vector.toList).flatten

/-- `redrawPending` (R269). -/
def State.isRedrawPending (s : State) : Bool := s.redrawPending

/-- `buzzerRequested` (R269). -/
def State.isBuzzerRequested (s : State) : Bool := s.buzzerRequested

/-- `fault` (R252, R269). -/
def State.faultCondition (s : State) : Option FaultCause := s.fault

end Sys2Proof.Machine
end

