-- ==== Sys2Proof/Machine/Flags.lean ====
section
/-! DEFINITION. Every flag the machine computes, as the value written to VF (spec/10_state.md R22, spec/42_alu.md R160,
R167 to R171; spec/44_display.md R212). The operands are taken as integers and the exact result is compared (R9). -/

namespace Sys2Proof.Machine

/-- A truth value stored in a register: 1 for true, 0 for false (R9). -/
def flagByte (c : Bool) : Byte := if c then 1 else 0

/-- Carry of an addition: 1 if the sum exceeds 255 (R167). -/
def carryFlag (a b : Byte) : Byte := flagByte (decide (a.toNat + b.toNat > 255))

/-- Not-borrow of `a - b`: 0 if the difference is negative, else 1 (R168, R170). -/
def notBorrowFlag (a b : Byte) : Byte := flagByte (!decide ((a.toNat : Int) - b.toNat < 0))

/-- The bit a right shift moves out: bit 0 (R169). -/
def lowBitFlag (a : Byte) : Byte := a &&& 1

/-- The bit a left shift moves out: bit 7, as 0 or 1 (R171). -/
def highBitFlag (a : Byte) : Byte := flagByte (a &&& 0x80 != 0)

/-- The collision flag of a drawing (R212). -/
def collisionFlag (hit : Bool) : Byte := flagByte hit

end Sys2Proof.Machine
end

