-- ==== Sys2Proof/Machine/Operands.lean ====
section
/-! DEFINITION. The operand forms: immediates (spec/30_encoding.md R93), memory at `I` plus an index
(spec/43_index_memory.md R190, spec/20_memory.md R61), the register block V0..VX, the key a register names
(spec/45_keypad_timers.md R230), and the glyph address (R193). -/

namespace Sys2Proof.Machine

/-- `EA(a) = a & 0xFFF`: the low 12 bits of the sum an instruction forms (R61). -/
def ea (a : Word) : Addr := a.setWidth 12

/-- The address of index `k` from base `I`: `EA(I + k)`, masked after the addition (R61, R190). -/
def State.indexed (s : State) (k : Nat) : Addr := ea (s.i + BitVec.ofNat 16 k)

/-- `zext_16(NNN)` (R93, R140 (b)). -/
def target (nnn : Addr) : Word := nnn.setWidth 16

/-- `zext_16` of a byte (R93). -/
def zext16 (b : Byte) : Word := b.setWidth 16

/-- The key an 8-bit value names: its low four bits, KEYPAD_INDEX = mask4 (R230, D8; log 10). -/
def keyIndex (b : Byte) : Key := Fin.ofNat 16 b.toNat

/-- The index of a key as a register value (R233). -/
def keyByte (k : Key) : Byte := BitVec.ofNat 8 k.val

/-- The registers V0..VX in rising order (R195, R196). -/
def regsTo (x : Reg) : List Reg := (List.finRange 16).filter (fun r => r.val ≤ x.val)

/-- `VX * 5`: the address of the glyph a value names, not masked (R193). -/
def glyphAddress (b : Byte) : Word := zext16 b * BitVec.ofNat 16 Config.glyphBytes

/-- The decimal digits of a byte: hundreds, tens, ones (R194). -/
def digits (b : Byte) : List Byte :=
  [BitVec.ofNat 8 (b.toNat / 100), BitVec.ofNat 8 (b.toNat / 10 % 10), BitVec.ofNat 8 (b.toNat % 10)]

/-- Store the listed bytes at `EA(I + k)`, `EA(I + k + 1)`, …, in that order (R64, R190, R194). -/
def State.storeFrom (s : State) (k : Nat) : List Byte → State
  | [] => s
  | b :: bs => (s.writeMem (s.indexed k) b).storeFrom (k + 1) bs

/-- Load the listed registers, `V[r]` from `EA(I + r)`, in that order (R64, R190, R196). -/
def State.loadRegs (s : State) : List Reg → State
  | [] => s
  | r :: rs => (s.setReg r (s.readMem (s.indexed r.val))).loadRegs rs

end Sys2Proof.Machine
end

