-- ==== Sys2Proof/Machine/Alu.lean ====
section
/-! DEFINITION. Register load, arithmetic, logic and random instructions (spec/42_alu.md R160 to R173). Each meaning
runs on the state whose `PC` is already pre-incremented (R122), and none of them touches `PC`. -/

namespace Sys2Proof.Machine

/-- 6XNN: `V[X] <- NN` (R161). -/
def execLdVxNn (x : Reg) (nn : Byte) (s : State) : Result := .next (s.setReg x nn)

/-- 7XNN: `V[X] <- (V[X] + NN) mod 256`, no flag (R162). -/
def execAddVxNn (x : Reg) (nn : Byte) (s : State) : Result := .next (s.setReg x (s.reg x + nn))

/-- 8XY0: `V[X] <- V[Y]` (R163). -/
def execLdVxVy (x y : Reg) (s : State) : Result := .next (s.setReg x (s.reg y))

/-- 8XY1: `V[X] <- V[X] | V[Y]`, VF untouched (R164). -/
def execOrVxVy (x y : Reg) (s : State) : Result := .next (s.setReg x (s.reg x ||| s.reg y))

/-- 8XY2: `V[X] <- V[X] & V[Y]`, VF untouched (R165). -/
def execAndVxVy (x y : Reg) (s : State) : Result := .next (s.setReg x (s.reg x &&& s.reg y))

/-- 8XY3: `V[X] <- V[X] ^ V[Y]`, VF untouched (R166). -/
def execXorVxVy (x y : Reg) (s : State) : Result := .next (s.setReg x (s.reg x ^^^ s.reg y))

/-- 8XY4: VF is the carry, `V[X]` the sum modulo 256 (R167). -/
def execAddVxVy (x y : Reg) (s : State) : Result :=
  .next (s.setFlagThenResult (carryFlag (s.reg x) (s.reg y)) x (s.reg x + s.reg y))

/-- 8XY5: VF is not-borrow, `V[X]` is `V[X] - V[Y]` modulo 256 (R168). -/
def execSub (x y : Reg) (s : State) : Result :=
  .next (s.setFlagThenResult (notBorrowFlag (s.reg x) (s.reg y)) x (s.reg x - s.reg y))

/-- 8XY6: `V[F] <- V[X] & 1`, then `V[X] <- V[X] >> 1`; the second statement reads what the first wrote (R11, R169,
R172, D6), and `Y` is ignored (R98). -/
def execShr (x _y : Reg) (s : State) : Result :=
  let s1 := s.setReg regF (lowBitFlag (s.reg x))
  .next (s1.setReg x (s1.reg x >>> 1))

/-- 8XY7: VF is not-borrow, `V[X]` is `V[Y] - V[X]` modulo 256 (R170). -/
def execSubn (x y : Reg) (s : State) : Result :=
  .next (s.setFlagThenResult (notBorrowFlag (s.reg y) (s.reg x)) x (s.reg y - s.reg x))

/-- 8XYE: `V[F] <-` bit 7 of `V[X]`, then `V[X] <- (V[X] << 1) mod 256`; the second statement reads what the first wrote
(R11, R171, R172, D6), and `Y` is ignored (R98). -/
def execShl (x _y : Reg) (s : State) : Result :=
  let s1 := s.setReg regF (highBitFlag (s.reg x))
  .next (s1.setReg x (s1.reg x <<< 1))

/-- CXNN: `V[X] <- draw8() & NN`; exactly one draw is used (R173). -/
def execRnd (x : Reg) (nn : Byte) (s : State) : Result :=
  .next ((s.setReg x (s.draw8 &&& nn)).consumeDraw)

end Sys2Proof.Machine
end

