-- ==== Sys2Proof/Machine/ControlFlow.lean ====
section
/-! DEFINITION. Control transfer instructions (spec/41_control_flow.md R140 to R149). `PC` is already
`(pc0 + 2) mod 65536` in every meaning (R122). -/

namespace Sys2Proof.Machine

/-- 0NNN: a no-op, whatever `NNN` is (R98, R141). -/
def execSys (_nnn : Addr) (s : State) : Result := .next s

/-- 00EE: pop the return address into `PC`, or `StackUnderflow` (R142). -/
def execRet (s : State) : Result := .next s.popPc

/-- 1NNN: `PC <- zext_16(NNN)` (R143). -/
def execJp (nnn : Addr) (s : State) : Result := .next (s.setPc (target nnn))

/-- 2NNN: push `PC`, then `PC <- zext_16(NNN)`; or `StackOverflow` (R144). -/
def execCall (nnn : Addr) (s : State) : Result := .next (s.pushPcThen (fun t => t.setPc (target nnn)))

/-- BNNN: `PC <- zext_16(NNN) + zext_16(V[0])`, not masked (R145). -/
def execJpV0 (nnn : Addr) (s : State) : Result := .next (s.setPc (target nnn + zext16 (s.reg 0)))

/-- 3XNN: skip if `V[X] == NN` (R146). -/
def execSeVxNn (x : Reg) (nn : Byte) (s : State) : Result := .next (s.skipIf (s.reg x == nn))

/-- 4XNN: skip if `V[X] != NN` (R147). -/
def execSneVxNn (x : Reg) (nn : Byte) (s : State) : Result := .next (s.skipIf (s.reg x != nn))

/-- 5XY0: skip if `V[X] == V[Y]` (R148). -/
def execSeVxVy (x y : Reg) (s : State) : Result := .next (s.skipIf (s.reg x == s.reg y))

/-- 9XY0: skip if `V[X] != V[Y]` (R149). -/
def execSneVxVy (x y : Reg) (s : State) : Result := .next (s.skipIf (s.reg x != s.reg y))

end Sys2Proof.Machine
end

