-- ==== Sys2Proof/Machine/DisplayDraw.lean ====
section
/-! DEFINITION. Display instructions (spec/44_display.md R210 to R214). -/

namespace Sys2Proof.Machine

/-- 00E0: every cell 0, `redrawPending` set, whether or not a cell changed (R211, C2). -/
def execCls (s : State) : Result := .next (s.showDisplay blankDisplay)

/-- Plot the `n` sprite rows at `EA(I + row)` from position `(x0, y0)` onto the display of `s` (R212). -/
def State.plotSprite (s : State) (x0 y0 : Byte) (n : Nat) : Plot :=
  plotRows (fun row => s.readMem (s.indexed row)) x0.toNat y0.toNat (List.range n)
    { display := s.display, collision := false }

/-- DXYN: XOR-plot the sprite at `(V[X], V[Y])`, which are read before VF is cleared (D7); VF ends as the collision
flag and `redrawPending` is set on every execution, also when `N = 0` (R212, C2, C4). -/
def execDrw (x y : Reg) (n : BitVec 4) (s : State) : Result :=
  let p := s.plotSprite (s.reg x) (s.reg y) n.toNat
  .next ((s.setReg regF (collisionFlag p.collision)).showDisplay p.display)

end Sys2Proof.Machine
end

