-- ==== Sys2Proof/Machine/IndexMemory.lean ====
section
/-! DEFINITION. Index register and memory transfer instructions (spec/43_index_memory.md R190 to R196). None changes
`PC`, none writes VF as a flag, and the transfers leave `I` as it was (R190, D11). -/

namespace Sys2Proof.Machine

/-- ANNN: `I <- zext_16(NNN)` (R191). -/
def execLdINnn (nnn : Addr) (s : State) : Result := .next (s.setI (target nnn))

/-- FX1E: `I <- (I + zext_16(V[X])) mod 65536`, not masked, VF untouched (R192, D22). -/
def execAddIVx (x : Reg) (s : State) : Result := .next (s.setI (s.i + zext16 (s.reg x)))

/-- FX29: `I <- zext_16(V[X]) * 5`, no mask on `V[X]` (R193). -/
def execLdFVx (x : Reg) (s : State) : Result := .next (s.setI (glyphAddress (s.reg x)))

/-- FX33: the decimal digits of `V[X]` at `EA(I)`, `EA(I + 1)`, `EA(I + 2)` (R194). -/
def execLdBVx (x : Reg) (s : State) : Result := .next (s.storeFrom 0 (digits (s.reg x)))

/-- FX55: `V[i]` at `EA(I + i)` for `i = 0 .. X` (R195). -/
def execStV0Vx (x : Reg) (s : State) : Result := .next (s.storeFrom 0 ((regsTo x).map s.reg))

/-- FX65: `V[i]` from `EA(I + i)` for `i = 0 .. X` (R196). -/
def execLdV0Vx (x : Reg) (s : State) : Result := .next (s.loadRegs (regsTo x))

end Sys2Proof.Machine
end

