-- ==== Sys2Proof/Machine/KeypadTimers.lean ====
section
/-! DEFINITION. Keypad and timer instructions (spec/45_keypad_timers.md R230 to R236). -/

namespace Sys2Proof.Machine

/-- EX9E: skip if key `V[X] & 0xF` is down (R230, R231). -/
def execSkp (x : Reg) (s : State) : Result := .next (s.skipIf (s.keyDown (keyIndex (s.reg x))))

/-- EXA1: skip if key `V[X] & 0xF` is not down (R230, R232). -/
def execSknp (x : Reg) (s : State) : Result := .next (s.skipIf (!s.keyDown (keyIndex (s.reg x))))

/-- FX07: `V[X] <- DT` (R234). -/
def execLdVxDt (x : Reg) (s : State) : Result := .next (s.setReg x s.dt)

/-- FX0A: with no key down, `PC <- pc0` and nothing else, so the instruction is fetched again; with one key down, its
index goes to `V[X]`; with several, the index of one of them, and a choice is used up (R129, R233). -/
def execLdVxK (x : Reg) (s : State) : Result :=
  match s.keysDown with
  | [] => .next s.retreatPc
  | [k] => .next (s.setReg x (keyByte k))
  | k :: ks => .next ((s.setReg x (keyByte (selectKey Config.keySelect s.draws k ks))).consumeDraw)

/-- FX15: `DT <- V[X]` (R235). -/
def execLdDtVx (x : Reg) (s : State) : Result := .next (s.setDt (s.reg x))

/-- FX18: `ST <- V[X]` (R236). -/
def execLdStVx (x : Reg) (s : State) : Result := .next (s.setSt (s.reg x))

end Sys2Proof.Machine
end

