-- ==== Sys2Proof/Machine/Cycle.lean ====
section
/-! DEFINITION. The fetch-decode-execute cycle (spec/40_cycle.md R120 to R130), the setting `TIMER_COUPLING` (R127, R265),
and performing an agent's operation (spec/00_scope.md R5). -/

namespace Sys2Proof.Machine

/-- Step 1, fetch: the two bytes at `PC & 0xFFF` and `(PC + 1) & 0xFFF`, high byte first (R63, R121). -/
def State.fetch (s : State) : Word := opcodeOf (s.readMem (ea s.pc)) (s.readMem (ea (s.pc + 1)))

/-- `Cycle` (R120): nothing while halted; else fetch, pre-increment, decode, and execute the one rule selected, or report
an unknown opcode (R126, R253). -/
def cycle (s : State) : Result :=
  match s.fault with
  | some _ => .next s
  | none =>
    match decode s.fetch with
    | .ok i => exec i s.advancePc
    | .error _ => .next (s.advancePc.emit (.unknownOpcode s.fetch s.pc))

/-- The tick that `per_cycle` adds after a cycle: one, unless the machine is halted or faulted in that cycle (R127,
R265, D26). -/
def State.tickUnlessHalted (s : State) : State :=
  match s.fault with
  | some _ => s
  | none => s.timerTick

/-- A `Cycle` under a setting of `TIMER_COUPLING` (R120, R127, R265). -/
def cycleUnder (coupling : TimerCoupling) (s : State) : Result :=
  match coupling with
  | .decoupled => cycle s
  | .perCycle =>
    match cycle s with
    | .next t => .next t.tickUnlessHalted
    | .fault r => .fault r
    | .refused r => .refused r

/-- A `TimerTick` that the schedule asks for. Under `decoupled` the Timer Clock ticks; under `per_cycle` no tick happens
but the one that a cycle brings with it, so the operation has no effect (R127, R265; log 9). -/
def State.tickUnder (s : State) (coupling : TimerCoupling) : State :=
  match coupling with
  | .decoupled => s.timerTick
  | .perCycle => s

/-- Perform one operation of an agent under a setting of `TIMER_COUPLING` (R5, R127, R265, R268). The answer of a load
goes to the host as an output (R291; log 2). -/
def performUnder (coupling : TimerCoupling) (op : AgentOp) (s : State) : Result :=
  match op with
  | .cycle => cycleUnder coupling s
  | .timerTick => .next (s.tickUnder coupling)
  | .initializeState => .next s.initializeState
  | .loadProgram bytes => .next ((s.loadProgram bytes).2.emit (.loadResult (s.loadProgram bytes).1))
  | .setKey k down => .next (s.setKey k down)
  | .clearRedraw => .next s.clearRedraw
  | .clearBuzzer => .next s.clearBuzzer

/-- Perform one operation of an agent, under the spec's setting of `TIMER_COUPLING` (R7, D1). -/
def perform (op : AgentOp) (s : State) : Result := performUnder Config.timerCoupling op s

/-- The operation that comes next: the head of the schedule, a cycle when it is empty (log 1). -/
def State.nextOp (s : State) : AgentOp := s.schedule.headD .cycle

/-- The state with the next operation taken off the schedule. -/
def State.dropOp (s : State) : State := { s with schedule := s.schedule.tail }

/-- One atomic transition of the system: the next operation is performed. -/
def performNext (s : State) : Result := perform s.nextOp s.dropOp

/-- Store an instruction's 16 bits where the next fetch reads, high byte first (R63, R104, R121). -/
def State.placeWord (s : State) (w : Word) : State :=
  (s.writeMem (ea s.pc) (highByte w)).writeMem (ea (s.pc + 1)) (lowByte w)

end Sys2Proof.Machine
end

