-- ==== Sys2Proof/Machine/Step.lean ====
section
/-! DEFINITION. One step of the machine, and placing an instruction for the next step to run. -/

namespace Sys2Proof.Machine

/-- One step: the next atomic operation of the agents (R5); a `Cycle` (R120) when nothing else is scheduled (log 1). -/
def step (s : State) : Host.Outcome State Fault Refusal := performNext s

/-- `s` with the table's word `w` stored where the next fetch reads. It stands for the host's `LoadProgram` (R291, R292;
log 8): no other operation is scheduled before the cycle, and the core is not halted, so that the next step runs the
instruction. -/
def State.withFetchWord (s : State) (nbits w : Nat) : State :=
  { s.placeWord (tableWord nbits w) with schedule := [], fault := none }

end Sys2Proof.Machine
end

