-- ==== Sys2Proof/Safety.lean ====
section
/-! DEFINITION. What counts as a safe run, in the terms the statements use: the machine's invariant, the halted and the
finished states, and the duties of the host and of the Timer Clock. -/

namespace Sys2Proof.Machine

/-- The machine is halted: a stack fault occurred since the last `Initialize` (R31, R252). A halted state is never the
result of a correct run (R252). -/
def State.halted (s : State) : Bool := s.fault.isSome

/-- The invariant of every state a run reaches: memory is in canonical form, and a recorded stack fault agrees with the
stack it was raised on, which nothing but `Initialize` changes afterwards (R37, R250 to R252). -/
def State.Inv (s : State) : Prop :=
  s.memory.wf ∧ (s.fault = some .stackOverflow → s.sp.val = 16) ∧ (s.fault = some .stackUnderflow → s.sp.val = 0)

/-- The program has finished: not halted, and the instruction at `PC` is a jump to itself (R295, D18; the spec's own
definition, which the hardware does not detect). -/
def State.finished (s : State) : Prop :=
  s.fault = none ∧ ∃ nnn : Addr, decode s.fetch = .ok (.jp nnn) ∧ target nnn = s.pc

/-- The launch state of a program that fits: reset, then a load, and whatever keys the host has set (R292). -/
def State.launch (keys : Vector Bool 16) (bytes : List Byte) : State :=
  { (State.reset.loadProgram bytes).2 with keypad := keys }

/-- The host's duty not to call `Cycle` before a successful load since the last `Initialize` (R274, R293, D19); `loaded`
says whether one has happened. The core keeps no such bit. -/
def hostDutiesKept (loaded : Bool) : List AgentOp → Bool
  | [] => true
  | .cycle :: ops => loaded && hostDutiesKept loaded ops
  | .initializeState :: ops => hostDutiesKept false ops
  | .loadProgram bytes :: ops => hostDutiesKept (loaded || decide (bytes.length ≤ Config.romMax)) ops
  | .timerTick :: ops | .setKey _ _ :: ops | .clearRedraw :: ops | .clearBuzzer :: ops => hostDutiesKept loaded ops

/-- Weak fairness of the Timer Clock over an infinite schedule: if there are infinitely many cycles, there are infinitely
many ticks, so finitely many cycles between two ticks (R266). -/
def weaklyFair (ops : Nat → AgentOp) : Prop :=
  (∀ n, ∃ m, n ≤ m ∧ ops m = .cycle) → ∀ n, ∃ m, n ≤ m ∧ ops m = .timerTick

/-- Perform a list of operations in order under a setting of `TIMER_COUPLING`, stopping at the first that answers no next
state. -/
def performAllUnder (coupling : TimerCoupling) : List AgentOp → State → Result
  | [], s => .next s
  | op :: ops, s =>
    match performUnder coupling op s with
    | .next t => performAllUnder coupling ops t
    | .fault r => .fault r
    | .refused r => .refused r

/-- Perform a list of operations in order, under the spec's setting of `TIMER_COUPLING` (R7, D1). -/
def performAll (ops : List AgentOp) (s : State) : Result := performAllUnder Config.timerCoupling ops s

end Sys2Proof.Machine
end

