-- ==== Sys2Proof/Certificates/Slice0/Obligations.lean ====
section
/-! DEFINITION. The statements for the provers. Words, registers and addresses are written as the rules of spec/ write
them, as numbers, and a statement about an instruction says that its word decodes to it, that it completes, what it
writes, and that everything else is as before (spec/00_scope.md R12). -/

open Sys2Proof Sys2Proof.Machine

/-! ## Terms the statements share -/

namespace Sys2Proof.Spec

/-- The opcode `family * 0x1000 + X * 0x100 + NN` (R91, R92). -/
def wordXNN (family : Nat) (x : Reg) (nn : Nat) : Word := BitVec.ofNat 16 (family * 0x1000 + x.val * 0x100 + nn)

/-- The opcode `family * 0x1000 + X * 0x100 + Y * 0x10 + N` (R91, R92). -/
def wordXYN (family : Nat) (x y : Reg) (n : Nat) : Word :=
  BitVec.ofNat 16 (family * 0x1000 + x.val * 0x100 + y.val * 0x10 + n)

/-- The opcode `family * 0x1000 + NNN` (R91, R92). -/
def wordNNN (family : Nat) (nnn : Addr) : Word := BitVec.ofNat 16 (family * 0x1000 + nnn.toNat)

/-- The word at `PC`: `hi * 256 + lo`, the bytes at `PC & 0xFFF` and `(PC + 1) & 0xFFF` (R63, R121). -/
def fetchedWord (s : State) : Word :=
  BitVec.ofNat 16 ((s.readMem (BitVec.ofNat 12 s.pc.toNat)).toNat * 256 +
    (s.readMem (BitVec.ofNat 12 (s.pc.toNat + 1))).toNat)

/-- The machine runs, and the word at its `PC` is the instruction `i`. -/
def AtInstr (s : State) (i : Instr) : Prop := s.fault = none ∧ decode (fetchedWord s) = .ok i

/-- `t` is `s` with only the registers `rs` written: every other register, and everything that is no register (`I`, `PC`,
stack, timers, keypad, display, flags of the host, fault, every byte of memory), is as in `s`. -/
def OnlyRegs (rs : List Reg) (s t : State) : Prop :=
  t = { s with v := t.v } ∧ ∀ r, r ∉ rs → t.reg r = s.reg r

/-- Key `k` is down and no other is. -/
def OnlyKeyDown (s : State) (k : Key) : Prop := ∀ j, s.keyDown j = true ↔ j = k

/-- A set sprite bit of an `n`-row sprite at `EA(I)`, drawn at `(x0, y0)`, lands on cell `(cx, cy)`: some row `r` and
column `c` with bit `7 - c` of the byte at `EA(I + r)` set and `(x0 + c) mod 64 = cx`, `(y0 + r) mod 32 = cy` (R210). -/
def Covers (s : State) (x0 y0 : Byte) (n : Nat) (cx : Fin 64) (cy : Fin 32) : Prop :=
  ∃ row, row < n ∧ ∃ col, col < 8 ∧ (s.readMem (s.indexed row)).getLsbD (7 - col) = true ∧
    (x0.toNat + col) % 64 = cx.val ∧ (y0.toNat + row) % 32 = cy.val

/-- The next cycle from `s` fetches the word `w`: it runs the instruction `w` decodes to, past its two bytes, or reports `w`
as unknown (R120, R121, R126). -/
def RunsWordAt (s : State) (w : Word) : Prop :=
  (∀ i, decode w = .ok i → cycle s = exec i { s with pc := BitVec.ofNat 16 (s.pc.toNat + 2) }) ∧
  (∀ e, decode w = .error e → cycle s = .next { s with
    pc := BitVec.ofNat 16 (s.pc.toNat + 2), outputs := s.outputs ++ [.unknownOpcode w s.pc] })

/-- `n` ticks of the Timer Clock. -/
def ticks : Nat → State → State
  | 0, s => s
  | n + 1, s => (ticks n s).timerTick

/-- `PC` after a cycle that runs instruction `i` from `PC = pc0` (the table of R125). -/
def pcAfter (i : Instr) (s : State) : Word :=
  let next := BitVec.ofNat 16 (s.pc.toNat + 2)
  let skipped := BitVec.ofNat 16 (s.pc.toNat + 4)
  match i with
  | .seVxNn x nn => if s.reg x = nn then skipped else next
  | .sneVxNn x nn => if s.reg x ≠ nn then skipped else next
  | .seVxVy x y => if s.reg x = s.reg y then skipped else next
  | .sneVxVy x y => if s.reg x ≠ s.reg y then skipped else next
  | .skp x => if s.keyDown (Fin.ofNat 16 (s.reg x).toNat) then skipped else next
  | .sknp x => if s.keyDown (Fin.ofNat 16 (s.reg x).toNat) then next else skipped
  | .jp nnn => BitVec.ofNat 16 nnn.toNat
  | .jpV0 nnn => BitVec.ofNat 16 (nnn.toNat + (s.reg 0).toNat)
  | .call nnn => if s.sp.val = 16 then next else BitVec.ofNat 16 nnn.toNat
  | .ret => if h : s.sp.val = 0 then next else s.stack[s.sp.val - 1]
  | .ldVxK _ => if ∃ k, s.keyDown k = true then next else s.pc
  | .cls | .sys _ | .ldVxNn _ _ | .addVxNn _ _ | .ldVxVy _ _ | .orVxVy _ _ | .andVxVy _ _ | .xorVxVy _ _ => next
  | .addVxVy _ _ | .sub _ _ | .shr _ _ | .subn _ _ | .shl _ _ | .ldINnn _ | .rnd _ _ | .drw _ _ _ => next
  | .ldVxDt _ | .ldDtVx _ | .ldStVx _ | .addIVx _ | .ldFVx _ | .ldBVx _ | .stV0Vx _ | .ldV0Vx _ => next

/-! The writes column of the access matrix (R33). -/

/-- The registers an instruction may write. -/
def regsWritten : Instr → List Reg
  | .ldVxNn x _ | .addVxNn x _ | .rnd x _ | .ldVxDt x | .ldVxK x => [x]
  | .ldVxVy x _ | .orVxVy x _ | .andVxVy x _ | .xorVxVy x _ => [x]
  | .addVxVy x _ | .sub x _ | .shr x _ | .subn x _ | .shl x _ => [15, x]
  | .drw _ _ _ => [15]
  | .ldV0Vx x => (List.finRange 16).filter (fun r => r ≤ x)
  | .cls | .ret | .sys _ | .jp _ | .call _ | .seVxNn _ _ | .sneVxNn _ _ | .seVxVy _ _ | .sneVxVy _ _ => []
  | .ldINnn _ | .jpV0 _ | .skp _ | .sknp _ | .ldDtVx _ | .ldStVx _ | .addIVx _ | .ldFVx _ | .ldBVx _ | .stV0Vx _ => []

/-- The addresses an instruction stores to: `EA(I + k)` for `k` in 0..2 (FX33) or 0..X (FX55), none otherwise. -/
def addressesWritten (s : State) : Instr → List Addr
  | .ldBVx _ => [s.indexed 0, s.indexed 1, s.indexed 2]
  | .stV0Vx x => (List.range (x.val + 1)).map s.indexed
  | _ => []

/-- May write `PC` (beyond the pre-increment). -/
def writesPc : Instr → Bool
  | .ret | .jp _ | .call _ | .jpV0 _ | .seVxNn _ _ | .sneVxNn _ _ | .seVxVy _ _ | .sneVxVy _ _ => true
  | .skp _ | .sknp _ | .ldVxK _ => true
  | _ => false

/-- May write `I`. -/
def writesI : Instr → Bool
  | .ldINnn _ | .addIVx _ | .ldFVx _ => true
  | _ => false

/-- May write `SP` or `fault`. -/
def writesSp : Instr → Bool
  | .call _ | .ret => true
  | _ => false

/-- May write a stack slot. -/
def writesStack : Instr → Bool
  | .call _ => true
  | _ => false

/-- May write `DT`. -/
def writesDt : Instr → Bool
  | .ldDtVx _ => true
  | _ => false

/-- May write `ST`. -/
def writesSt : Instr → Bool
  | .ldStVx _ => true
  | _ => false

/-- May write the display and `redrawPending`. -/
def writesDisplay : Instr → Bool
  | .cls | .drw _ _ _ => true
  | _ => false

/-- The unknown opcodes, family by family (the table of R97). -/
def Unknown (w : Word) : Prop :=
  let family := w.toNat / 0x1000
  let nn := w.toNat % 0x100
  let n := w.toNat % 0x10
  (family = 0x5 ∧ n ≠ 0) ∨ (family = 0x8 ∧ n ∈ [8, 9, 0xA, 0xB, 0xC, 0xD, 0xF]) ∨ (family = 0x9 ∧ n ≠ 0) ∨
    (family = 0xE ∧ nn ∉ [0x9E, 0xA1]) ∨
    (family = 0xF ∧ nn ∉ [0x07, 0x0A, 0x15, 0x18, 0x1E, 0x29, 0x33, 0x55, 0x65])

end Sys2Proof.Spec

open Sys2Proof.Spec

/-! ## Encoding -/

/-- Tier 3: every instruction with an encoding of its own decodes from its own word, with every operand (R94, R96). -/
def Obligations.DecodeOfEncodeIsIdentity : Prop := ∀ i : Instr, i.wf = true → decode (encode i) = .ok i

/-- Each word that decodes is the word of the instruction it decodes to, which is well formed (R94, R98, R100): no bit of
a word is dropped, the ignored fields included. -/
def Obligations.EncodeOfDecodeIsIdentity : Prop :=
  ∀ (w : Word) (i : Instr), decode w = .ok i → encode i = w ∧ i.wf = true

/-- The words that select nothing are those of R97's table, and every other word is an instruction (R97, R100). -/
def Obligations.UnknownOpcodesAreExactlyTheTable : Prop :=
  ∀ w : Word, (Unknown w → decode w = .error (.unknownOpcode w)) ∧ (¬ Unknown w → ∃ i, decode w = .ok i)

/-- Nine words written out from the encodings of R94 decode to the instructions they stand for, and the unknown opcode
0x5001 is refused. -/
def Obligations.WordsOfTheTableDecode : Prop :=
  decode 0x00E0#16 = .ok .cls ∧ decode 0x00EE#16 = .ok .ret ∧ decode 0x22FA#16 = .ok (.call 0x2FA#12) ∧
    decode 0x3A2B#16 = .ok (.seVxNn 0xA 0x2B#8) ∧ decode 0x8125#16 = .ok (.sub 1 2) ∧
    decode 0xA2F0#16 = .ok (.ldINnn 0x2F0#12) ∧ decode 0xD12A#16 = .ok (.drw 1 2 0xA#4) ∧
    decode 0xE5A1#16 = .ok (.sknp 5) ∧ decode 0xFF55#16 = .ok (.stV0Vx 0xF) ∧
    decode 0x5001#16 = .error (.unknownOpcode 0x5001#16)

/-! ## The step, the cycle and where `PC` goes -/

/-- A step runs the decoded instruction: with the word at `PC` decoding to `i`, the machine not halted and a cycle next
(the schedule empty, or a cycle at its head: the model's field, log 1), the step is `exec i` on the state whose `PC` has
moved past the instruction; that `PC` counts 16 bits is the spec's decision D9 (R120 to R124). -/
def Obligations.StepRunsTheDecodedInstruction : Prop :=
  ∀ (s : State) (i : Instr), AtInstr s i →
    (s.schedule = [] → step s = exec i { s with pc := BitVec.ofNat 16 (s.pc.toNat + 2) }) ∧
    (∀ ops, s.schedule = .cycle :: ops →
      step s = exec i { s with pc := BitVec.ofNat 16 (s.pc.toNat + 2), schedule := ops })

/-- A step performs the operation at the head of the schedule, whichever it is, and takes it off; with nothing scheduled it
performs a `Cycle`. Each operation of R268 is one atomic transition; the schedule is the model's field (R5, R128, R268;
log 1). -/
def Obligations.StepPerformsTheHeadOfTheSchedule : Prop :=
  ∀ s : State,
    (∀ op ops, s.schedule = op :: ops → step s = perform op { s with schedule := ops }) ∧
    (s.schedule = [] → step s = perform .cycle s) ∧
    perform .cycle s = cycle s

/-- A word placed at `PC` in high-byte-first order is the instruction the next step runs, whatever `PC` is, odd or at the
top of memory (R63, R65, R68; placing a word is the model's form of a load, log 8). -/
def Obligations.PlacedWordRunsNext : Prop :=
  ∀ (s : State) (w : Nat) (i : Instr), s.memory.wf → decode (BitVec.ofNat 16 w) = .ok i → w < 65536 →
    step (s.withFetchWord 16 w) =
      exec i { s.withFetchWord 16 w with pc := BitVec.ofNat 16 (s.pc.toNat + 2) }

/-- An unknown opcode is a two-byte no-op that emits one diagnostic with the opcode and the unmasked `PC` (R126, R253,
D16; that the event is appended to the model's output list is log 2). -/
def Obligations.UnknownOpcodeIsReportedNoOp : Prop :=
  ∀ s : State, s.fault = none → Unknown (fetchedWord s) →
    cycle s = .next { s with
      pc := BitVec.ofNat 16 (s.pc.toNat + 2)
      outputs := s.outputs ++ [.unknownOpcode (fetchedWord s) s.pc] }

/-- Where `PC` ends, for every instruction and for the unknown opcodes: the table of R125 (with the spec's decisions
D2, D8, D9 and D12). -/
def Obligations.PcAfterEveryCycle : Prop :=
  ∀ s : State, s.fault = none →
    (∀ i, decode (fetchedWord s) = .ok i → ∃ t, cycle s = .next t ∧ t.pc = pcAfter i s) ∧
    (Unknown (fetchedWord s) → ∃ t, cycle s = .next t ∧ t.pc = BitVec.ofNat 16 (s.pc.toNat + 2))

/-- A finished program stays where it is: the jump to its own address leaves the whole state unchanged (R143 corner case,
R295; the definition of finished is the spec's own, D18). -/
def Obligations.FinishedStateIsAFixedPoint : Prop := ∀ s : State, s.finished → cycle s = .next s

/-! ## Faults -/

/-- Only 2NNN raises StackOverflow, exactly at `SP = 16`, and only 00EE raises StackUnderflow, exactly at `SP = 0`; the
check comes first, so neither pushes, pops or moves `SP` (R250, R251). -/
def Obligations.StackFaultsExactly : Prop :=
  ∀ (i : Instr) (s t : State), s.fault = none → exec i s = .next t →
    (t.fault = some .stackOverflow ↔ (∃ nnn, i = .call nnn) ∧ s.sp.val = 16) ∧
    (t.fault = some .stackUnderflow ↔ i = .ret ∧ s.sp.val = 0) ∧
    (t.fault ≠ none → t.stack = s.stack ∧ t.sp = s.sp ∧ t.pc = s.pc)

/-- Fault entry at the level of the cycle: `fault` is set, `PC` is past the faulting instruction, nothing else changes,
and the next cycle changes nothing (R252, R120, D12). -/
def Obligations.FaultEntryThenHalted : Prop :=
  ∀ (s : State) (c : FaultCause),
    ((∃ nnn, AtInstr s (.call nnn)) ∧ s.sp.val = 16 ∧ c = .stackOverflow ∨
      AtInstr s .ret ∧ s.sp.val = 0 ∧ c = .stackUnderflow) →
    ∃ t, cycle s = .next t ∧ t = { s with pc := BitVec.ofNat 16 (s.pc.toNat + 2), fault := some c } ∧
      cycle t = .next t

/-- A halted machine leaves its fault only through `Initialize`: no other operation changes `fault`, the registers, `I`,
`PC`, the stack, `SP` or the display, and a `Cycle` changes nothing and emits nothing (R31, R120, R252, R259, D12). -/
def Obligations.HaltedUntilInitialize : Prop :=
  ∀ (s : State) (c : FaultCause), s.fault = some c →
    (s.nextOp = .cycle → step s = .next s.dropOp) ∧
    ∃ t, step s = .next t ∧
      (s.nextOp = .initializeState → t.fault = none) ∧
      (s.nextOp ≠ .initializeState →
        t.fault = some c ∧ t.v = s.v ∧ t.i = s.i ∧ t.pc = s.pc ∧ t.stack = s.stack ∧ t.sp = s.sp ∧
          t.display = s.display)

/-! ## Control transfer -/

/-- 0NNN does nothing, for every `NNN` but those of 00E0 and 00EE; its cycle moves `PC` past it and emits nothing
(R141). -/
def Obligations.SysIsANoOp : Prop :=
  ∀ (nnn : Addr) (s : State), nnn ≠ 0x0E0#12 → nnn ≠ 0x0EE#12 →
    decode (wordNNN 0x0 nnn) = .ok (.sys nnn) ∧ exec (.sys nnn) s = .next s ∧
      (AtInstr s (.sys nnn) → cycle s = .next { s with pc := BitVec.ofNat 16 (s.pc.toNat + 2) })

/-- 00EE pops `PC` from the slot below `SP`, which keeps its value; on an empty stack it raises StackUnderflow, changes
nothing else and the machine is halted: a cycle leaves it as it is; this fault state is the spec's
decision D12 (R142; log 7, log 10). -/
def Obligations.ReturnPopsPc : Prop :=
  ∀ s : State, decode 0x00EE#16 = .ok .ret ∧
    ∃ t, exec .ret s = .next t ∧
      (∀ h : 0 < s.sp.val,
        t.sp.val = s.sp.val - 1 ∧ t.pc = s.stack[s.sp.val - 1] ∧ t = { s with sp := t.sp, pc := t.pc }) ∧
      (s.sp.val = 0 → t = { s with fault := some .stackUnderflow } ∧ cycle t = .next t)

/-- 1NNN jumps to `NNN`; a jump to its own address is a cycle that leaves the whole state unchanged (R143). -/
def Obligations.JumpSetsPc : Prop :=
  ∀ (nnn : Addr) (s : State),
    decode (wordNNN 0x1 nnn) = .ok (.jp nnn) ∧
    (∃ t, exec (.jp nnn) s = .next t ∧ t.pc.toNat = nnn.toNat ∧ t = { s with pc := t.pc }) ∧
    (AtInstr s (.jp nnn) → nnn.toNat = s.pc.toNat → cycle s = .next s)

/-- 2NNN pushes the pre-incremented `PC` and jumps, so that a 00EE with the stack as the call left it comes back, wherever
`PC` is then; with 16 addresses held it raises StackOverflow, changes nothing else and the machine is halted,
which is the spec's decision D12 (R144; log 7, log 10). -/
def Obligations.CallPushesPc : Prop :=
  ∀ (nnn : Addr) (s : State),
    decode (wordNNN 0x2 nnn) = .ok (.call nnn) ∧
    ∃ t, exec (.call nnn) s = .next t ∧
      (∀ h : s.sp.val < 16,
        t.stack[s.sp.val] = s.pc ∧ (∀ k (hk : k < 16), k ≠ s.sp.val → t.stack[k] = s.stack[k]) ∧
        t.sp.val = s.sp.val + 1 ∧ t.pc.toNat = nnn.toNat ∧
        t = { s with stack := t.stack, sp := t.sp, pc := t.pc } ∧
        ∀ elsewhere : Word, ∃ u, exec .ret { t with pc := elsewhere } = .next u ∧ u.pc = s.pc ∧ u.sp = s.sp) ∧
      (s.sp.val = 16 → t = { s with fault := some .stackOverflow } ∧ cycle t = .next t)

/-- Two cycles, a call and a return at its target: they end at the instruction after the call, with the stack depth they
started from; the slot of the popped address, which keeps the return address, is all else that differs (R25, R142, R144). -/
def Obligations.CallThenReturnComesBack : Prop :=
  ∀ (nnn : Addr) (s : State), AtInstr s (.call nnn) → ∀ h : s.sp.val < 16,
    ∃ t, cycle s = .next t ∧ (AtInstr t .ret →
      cycle t = .next { s with
        pc := BitVec.ofNat 16 (s.pc.toNat + 2)
        stack := s.stack.set s.sp.val (BitVec.ofNat 16 (s.pc.toNat + 2)) h })

/-- BNNN jumps to `NNN + V0`, a sum that never wraps and is not masked (R145). -/
def Obligations.IndexedJumpAddsV0 : Prop :=
  ∀ (nnn : Addr) (s : State),
    decode (wordNNN 0xB nnn) = .ok (.jpV0 nnn) ∧
    ∃ t, exec (.jpV0 nnn) s = .next t ∧ t.pc.toNat = nnn.toNat + (s.reg 0).toNat ∧ t = { s with pc := t.pc }

/-- 3XNN skips when `VX = NN`, 4XNN when not; the skip adds 2 modulo 65536 and nothing else changes (R146, R147). -/
def Obligations.ImmediateSkips : Prop :=
  ∀ (x : Reg) (nn : Byte) (s : State),
    decode (wordXNN 0x3 x nn.toNat) = .ok (.seVxNn x nn) ∧ decode (wordXNN 0x4 x nn.toNat) = .ok (.sneVxNn x nn) ∧
    ∃ t u, exec (.seVxNn x nn) s = .next t ∧ exec (.sneVxNn x nn) s = .next u ∧
      t = { s with pc := t.pc } ∧ u = { s with pc := u.pc } ∧
      t.pc.toNat = (if s.reg x = nn then (s.pc.toNat + 2) % 65536 else s.pc.toNat) ∧
      u.pc.toNat = (if s.reg x = nn then s.pc.toNat else (s.pc.toNat + 2) % 65536)

/-- 5XY0 skips when `VX = VY`, 9XY0 when not; with another low nibble the opcode is unknown (R148, R149). -/
def Obligations.RegisterSkips : Prop :=
  ∀ (x y : Reg) (s : State),
    decode (wordXYN 0x5 x y 0) = .ok (.seVxVy x y) ∧ decode (wordXYN 0x9 x y 0) = .ok (.sneVxVy x y) ∧
    (∀ n, 0 < n → n < 16 → decode (wordXYN 0x5 x y n) = .error (.unknownOpcode (wordXYN 0x5 x y n)) ∧
      decode (wordXYN 0x9 x y n) = .error (.unknownOpcode (wordXYN 0x9 x y n))) ∧
    ∃ t u, exec (.seVxVy x y) s = .next t ∧ exec (.sneVxVy x y) s = .next u ∧
      t = { s with pc := t.pc } ∧ u = { s with pc := u.pc } ∧
      t.pc.toNat = (if s.reg x = s.reg y then (s.pc.toNat + 2) % 65536 else s.pc.toNat) ∧
      u.pc.toNat = (if s.reg x = s.reg y then s.pc.toNat else (s.pc.toNat + 2) % 65536)

/-! ## Load, arithmetic, logic, random -/

/-- 6XNN loads `NN`; for `X = F` it writes VF like any register (R161). -/
def Obligations.LoadImmediate : Prop :=
  ∀ (x : Reg) (nn : Byte) (s : State),
    decode (wordXNN 0x6 x nn.toNat) = .ok (.ldVxNn x nn) ∧
    ∃ t, exec (.ldVxNn x nn) s = .next t ∧ t.reg x = nn ∧ OnlyRegs [x] s t

/-- 7XNN adds `NN` modulo 256 and records no carry (R162). -/
def Obligations.AddImmediateWithoutFlag : Prop :=
  ∀ (x : Reg) (nn : Byte) (s : State),
    decode (wordXNN 0x7 x nn.toNat) = .ok (.addVxNn x nn) ∧
    ∃ t, exec (.addVxNn x nn) s = .next t ∧ (t.reg x).toNat = ((s.reg x).toNat + nn.toNat) % 256 ∧ OnlyRegs [x] s t

/-- 8XY0 copies `VY` to `VX` (R163). -/
def Obligations.CopyRegister : Prop :=
  ∀ (x y : Reg) (s : State),
    decode (wordXYN 0x8 x y 0) = .ok (.ldVxVy x y) ∧
    ∃ t, exec (.ldVxVy x y) s = .next t ∧ t.reg x = s.reg y ∧ OnlyRegs [x] s t

/-- 8XY1, 8XY2 and 8XY3 are OR, AND and XOR bit by bit, and leave VF alone unless it is `VX` (R164, R165, R166). -/
def Obligations.BitwiseLogic : Prop :=
  ∀ (x y : Reg) (s : State),
    decode (wordXYN 0x8 x y 1) = .ok (.orVxVy x y) ∧ decode (wordXYN 0x8 x y 2) = .ok (.andVxVy x y) ∧
    decode (wordXYN 0x8 x y 3) = .ok (.xorVxVy x y) ∧
    ∃ t u w, exec (.orVxVy x y) s = .next t ∧ exec (.andVxVy x y) s = .next u ∧ exec (.xorVxVy x y) s = .next w ∧
      OnlyRegs [x] s t ∧ OnlyRegs [x] s u ∧ OnlyRegs [x] s w ∧
      ∀ k, k < 8 →
        (t.reg x).getLsbD k = ((s.reg x).getLsbD k || (s.reg y).getLsbD k) ∧
        (u.reg x).getLsbD k = ((s.reg x).getLsbD k && (s.reg y).getLsbD k) ∧
        (w.reg x).getLsbD k = ((s.reg x).getLsbD k != (s.reg y).getLsbD k)

/-- 8XY4: the sum modulo 256, and VF 1 exactly when the sum exceeds 255. For `X = F` the sum stands and for `Y = F`
the old VF is added, which is the spec's decision D6 (R167, R172; log 10). -/
def Obligations.AddSetsCarry : Prop :=
  ∀ (x y : Reg) (s : State),
    decode (wordXYN 0x8 x y 4) = .ok (.addVxVy x y) ∧
    ∃ t, exec (.addVxVy x y) s = .next t ∧
      (t.reg x).toNat = ((s.reg x).toNat + (s.reg y).toNat) % 256 ∧
      (x ≠ 15 → (t.reg 15).toNat = if (s.reg x).toNat + (s.reg y).toNat > 255 then 1 else 0) ∧
      OnlyRegs [15, x] s t

/-- 8XY5: the difference modulo 256, and VF 0 exactly when it is negative. For `X = F` the difference stands and for
`Y = F` the old VF is subtracted, which is the spec's decision D6 (R168, R172; log 10). -/
def Obligations.SubSetsNotBorrow : Prop :=
  ∀ (x y : Reg) (s : State),
    decode (wordXYN 0x8 x y 5) = .ok (.sub x y) ∧
    ∃ t, exec (.sub x y) s = .next t ∧
      ((t.reg x).toNat : Int) = (((s.reg x).toNat : Int) - (s.reg y).toNat) % 256 ∧
      (x ≠ 15 → (t.reg 15).toNat = if ((s.reg x).toNat : Int) - (s.reg y).toNat < 0 then 0 else 1) ∧
      OnlyRegs [15, x] s t

/-- 8XY7: the reversed difference modulo 256, and VF 0 exactly when it is negative. For `X = F` the difference stands
and for `Y = F` the old VF is the minuend, which is the spec's decision D6 (R170, R172; log 10). -/
def Obligations.SubnSetsNotBorrow : Prop :=
  ∀ (x y : Reg) (s : State),
    decode (wordXYN 0x8 x y 7) = .ok (.subn x y) ∧
    ∃ t, exec (.subn x y) s = .next t ∧
      ((t.reg x).toNat : Int) = (((s.reg y).toNat : Int) - (s.reg x).toNat) % 256 ∧
      (x ≠ 15 → (t.reg 15).toNat = if ((s.reg y).toNat : Int) - (s.reg x).toNat < 0 then 0 else 1) ∧
      OnlyRegs [15, x] s t

/-- 8XY6: half of `VX`, VF the bit shifted out, `VY` ignored; for `X = F` VF ends 0, which is the spec's decision D6
(R169, R172; log 10). -/
def Obligations.ShiftRightSetsFlag : Prop :=
  ∀ (x y : Reg) (s : State),
    decode (wordXYN 0x8 x y 6) = .ok (.shr x y) ∧
    ∃ t, exec (.shr x y) s = .next t ∧
      (x ≠ 15 → (t.reg x).toNat = (s.reg x).toNat / 2 ∧ (t.reg 15).toNat = (s.reg x).toNat % 2) ∧
      (x = 15 → t.reg 15 = 0) ∧ OnlyRegs [15, x] s t

/-- 8XYE: twice `VX` modulo 256, VF the bit shifted out, `VY` ignored; for `X = F` VF ends 2 if the old VF had bit 7 set
and 0 otherwise, which is the spec's decision D6 (R171, R172; log 10). -/
def Obligations.ShiftLeftSetsFlag : Prop :=
  ∀ (x y : Reg) (s : State),
    decode (wordXYN 0x8 x y 0xE) = .ok (.shl x y) ∧
    ∃ t, exec (.shl x y) s = .next t ∧
      (x ≠ 15 → (t.reg x).toNat = (2 * (s.reg x).toNat) % 256 ∧ (t.reg 15).toNat = (s.reg x).toNat / 128) ∧
      (x = 15 → (t.reg 15).toNat = if (s.reg 15).toNat ≥ 128 then 2 else 0) ∧ OnlyRegs [15, x] s t

/-- CXNN: a drawn byte masked with `NN`, so a submask of `NN` whatever was drawn, and exactly one draw is used. The byte is
the model's free value of this draw (R173, D15; log 3); the statement holds for every value of it. -/
def Obligations.RandomIsMaskedDraw : Prop :=
  ∀ (x : Reg) (nn : Byte) (s : State),
    decode (wordXNN 0xC x nn.toNat) = .ok (.rnd x nn) ∧
    ∃ t, exec (.rnd x nn) s = .next t ∧ t.reg x = Config.randomByte s.draws &&& nn ∧
      (∀ k, nn.getLsbD k = false → (t.reg x).getLsbD k = false) ∧
      t = { s with v := t.v, draws := s.draws + 1 } ∧ ∀ r, r ≠ x → t.reg r = s.reg r

/-! ## Index register and memory transfers -/

/-- ANNN loads `I` (R191). -/
def Obligations.LoadIndex : Prop :=
  ∀ (nnn : Addr) (s : State),
    decode (wordNNN 0xA nnn) = .ok (.ldINnn nnn) ∧
    ∃ t, exec (.ldINnn nnn) s = .next t ∧ t.i.toNat = nnn.toNat ∧ t = { s with i := t.i }

/-- FX1E adds `VX` to `I` modulo 65536, not masked, and VF is untouched (R192, D22). -/
def Obligations.AddToIndex : Prop :=
  ∀ (x : Reg) (s : State),
    decode (wordXNN 0xF x 0x1E) = .ok (.addIVx x) ∧
    ∃ t, exec (.addIVx x) s = .next t ∧ t.i.toNat = (s.i.toNat + (s.reg x).toNat) % 65536 ∧ t = { s with i := t.i }

/-- FX29 points `I` at `VX * 5`, with no mask on `VX` (R193). -/
def Obligations.GlyphAddress : Prop :=
  ∀ (x : Reg) (s : State),
    decode (wordXNN 0xF x 0x29) = .ok (.ldFVx x) ∧
    ∃ t, exec (.ldFVx x) s = .next t ∧ t.i.toNat = (s.reg x).toNat * 5 ∧ t = { s with i := t.i }

/-- FX33 stores the three decimal digits of `VX` at `EA(I)`, `EA(I + 1)`, `EA(I + 2)`; every byte at another address reads
as before, and nothing but memory changes (R194). -/
def Obligations.DecimalDigitsStored : Prop :=
  ∀ (x : Reg) (s : State), s.memory.wf →
    decode (wordXNN 0xF x 0x33) = .ok (.ldBVx x) ∧
    ∃ t, exec (.ldBVx x) s = .next t ∧
      (t.readMem (BitVec.ofNat 12 s.i.toNat)).toNat = (s.reg x).toNat / 100 ∧
      (t.readMem (BitVec.ofNat 12 (s.i.toNat + 1))).toNat = (s.reg x).toNat / 10 % 10 ∧
      (t.readMem (BitVec.ofNat 12 (s.i.toNat + 2))).toNat = (s.reg x).toNat % 10 ∧
      (∀ a : Addr, (∀ k, k < 3 → a ≠ s.indexed k) → t.readMem a = s.readMem a) ∧
      t = { s with memory := t.memory }

/-- FX55 stores `V0..VX` at `EA(I)..EA(I + X)`, each address masked on its own; every byte at another address reads as
before, and nothing but memory changes, `I` included (R195, D11). -/
def Obligations.RegistersStored : Prop :=
  ∀ (x : Reg) (s : State), s.memory.wf →
    decode (wordXNN 0xF x 0x55) = .ok (.stV0Vx x) ∧
    ∃ t, exec (.stV0Vx x) s = .next t ∧
      (∀ r : Reg, r ≤ x → t.readMem (BitVec.ofNat 12 (s.i.toNat + r.val)) = s.reg r) ∧
      (∀ a : Addr, (∀ k, k ≤ x.val → a ≠ s.indexed k) → t.readMem a = s.readMem a) ∧
      t = { s with memory := t.memory }

/-- FX65 loads `V0..VX` from `EA(I)..EA(I + X)`; the registers above `VX`, memory and `I` are as before (R196, D11). -/
def Obligations.RegistersLoaded : Prop :=
  ∀ (x : Reg) (s : State),
    decode (wordXNN 0xF x 0x65) = .ok (.ldV0Vx x) ∧
    ∃ t, exec (.ldV0Vx x) s = .next t ∧
      (∀ r : Reg, r ≤ x → t.reg r = s.readMem (BitVec.ofNat 12 (s.i.toNat + r.val))) ∧
      (∀ r : Reg, x < r → t.reg r = s.reg r) ∧ t = { s with v := t.v }

/-- A stored instruction is what the next cycle fetches and runs, with no fence, wherever in the stored block `PC` stands:
after FX55, at `PC = I + r` with `r < X`, the cycle runs the word `Vr * 256 + V(r + 1)`; after FX33, at `PC = I + r` with
`r < 2`, the word of digits `r` and `r + 1`. In two cycles that follow one another: an FX55 with `I` at the next instruction
is followed by the word `V0 * 256 + V1`; and an FX55 that overwrites its own two bytes still completes as fetched, the new
bytes taking effect the next time they are fetched (R73). -/
def Obligations.StoreIsSeenByFetch : Prop :=
  ∀ (x : Reg) (s : State), s.memory.wf → s.fault = none →
    (∃ t, exec (.stV0Vx x) s = .next t ∧
      ∀ r (_ : r < x.val) (h : r < 16) (h' : r + 1 < 16),
        RunsWordAt { t with pc := BitVec.ofNat 16 (s.i.toNat + r) }
          (BitVec.ofNat 16 ((s.reg ⟨r, h⟩).toNat * 256 + (s.reg ⟨r + 1, h'⟩).toNat))) ∧
    (∃ t, exec (.ldBVx x) s = .next t ∧
      RunsWordAt { t with pc := s.i }
        (BitVec.ofNat 16 ((s.reg x).toNat / 100 * 256 + (s.reg x).toNat / 10 % 10)) ∧
      RunsWordAt { t with pc := BitVec.ofNat 16 (s.i.toNat + 1) }
        (BitVec.ofNat 16 ((s.reg x).toNat / 10 % 10 * 256 + (s.reg x).toNat % 10))) ∧
    (AtInstr s (.stV0Vx x) → 1 ≤ x →
      ∃ t, cycle s = .next t ∧
        (∀ r : Reg, r ≤ x → t.readMem (BitVec.ofNat 12 (s.i.toNat + r.val)) = s.reg r) ∧
        (s.i = BitVec.ofNat 16 (s.pc.toNat + 2) →
          RunsWordAt t (BitVec.ofNat 16 ((s.reg 0).toNat * 256 + (s.reg 1).toNat))) ∧
        (s.i = s.pc →
          RunsWordAt { t with pc := s.pc } (BitVec.ofNat 16 ((s.reg 0).toNat * 256 + (s.reg 1).toNat))))

/-! ## Display -/

/-- 00E0 clears every cell and sets `redrawPending`; VF, memory and everything else are as before (R211). -/
def Obligations.ClearScreen : Prop :=
  ∀ s : State, decode 0x00E0#16 = .ok .cls ∧
    ∃ t, exec .cls s = .next t ∧ (∀ x y, t.cell x y = false) ∧ t.redrawPending = true ∧
      t = { s with display := t.display, redrawPending := t.redrawPending }

/-- The loops of DXYN against their closed form: the new display is the old one XOR the wrapped sprite mask, VF is
1 exactly when the mask meets a cell that was 1, `redrawPending` is set, and nothing else changes. The position is read
before VF is cleared, the spec's decision D7; the axes are its D14 (R210, R212, R213 (c); log 10). -/
def Obligations.DrawIsXorWithWrappedSprite : Prop :=
  ∀ (x y : Reg) (n : BitVec 4) (s : State),
    decode (wordXYN 0xD x y n.toNat) = .ok (.drw x y n) ∧
    ∃ t, exec (.drw x y n) s = .next t ∧
      (∀ cx cy, t.cell cx cy = true ↔
        ¬ (s.cell cx cy = true ↔ Covers s (s.reg x) (s.reg y) n.toNat cx cy)) ∧
      ((∃ cx cy, Covers s (s.reg x) (s.reg y) n.toNat cx cy ∧ s.cell cx cy = true) → t.reg 15 = 1) ∧
      (¬ (∃ cx cy, Covers s (s.reg x) (s.reg y) n.toNat cx cy ∧ s.cell cx cy = true) → t.reg 15 = 0) ∧
      t.redrawPending = true ∧ (∀ r, r ≠ 15 → t.reg r = s.reg r) ∧
      t = { s with v := t.v, display := t.display, redrawPending := t.redrawPending }

/-- Drawing the same sprite twice at the same position restores the display; the second draw reports a collision exactly
when some cell under a set sprite bit was 0 before the first (R213 (d), C9). The position is the same also when VF is a
coordinate, as the hypotheses say. -/
def Obligations.DrawTwiceRestoresDisplay : Prop :=
  ∀ (x y : Reg) (n : BitVec 4) (s t : State), exec (.drw x y n) s = .next t →
    t.reg x = s.reg x → t.reg y = s.reg y →
    ∃ u, exec (.drw x y n) t = .next u ∧ u.display = s.display ∧
      (u.reg 15 = 1 ↔ ∃ cx cy, Covers s (s.reg x) (s.reg y) n.toNat cx cy ∧ s.cell cx cy = false)

/-! ## Keypad and timers -/

/-- EX9E skips when key `VX mod 16` is down, EXA1 when it is not; the keypad and the registers are as before (R231, R232; the
low nibble is the spec's decision D8, R230, log 10). -/
def Obligations.KeySkips : Prop :=
  ∀ (x : Reg) (k : Key) (s : State), (s.reg x).toNat % 16 = k.val →
    decode (wordXNN 0xE x 0x9E) = .ok (.skp x) ∧ decode (wordXNN 0xE x 0xA1) = .ok (.sknp x) ∧
    ∃ t u, exec (.skp x) s = .next t ∧ exec (.sknp x) s = .next u ∧
      t = { s with pc := t.pc } ∧ u = { s with pc := u.pc } ∧
      t.pc.toNat = (if s.keyDown k then (s.pc.toNat + 2) % 65536 else s.pc.toNat) ∧
      u.pc.toNat = (if s.keyDown k then s.pc.toNat else (s.pc.toNat + 2) % 65536)

/-- FX0A with no key down: the cycle leaves the whole state as it was (R233 (a), D2). With keys down: `VX` is the index of
one of them, the only one if there is one; which one otherwise is the model's free choice (R233 (d), (e), D3; log 4), and
the model's draw counter is the only other thing that may change. -/
def Obligations.KeyWait : Prop :=
  ∀ (x : Reg) (s : State),
    decode (wordXNN 0xF x 0x0A) = .ok (.ldVxK x) ∧
    ((∀ k, s.keyDown k = false) →
      exec (.ldVxK x) s = .next { s with pc := s.pc - 2 } ∧ (AtInstr s (.ldVxK x) → cycle s = .next s)) ∧
    ((∃ k, s.keyDown k = true) →
      ∃ t k, exec (.ldVxK x) s = .next t ∧ s.keyDown k = true ∧ (t.reg x).toNat = k.val ∧
        (∀ j, OnlyKeyDown s j → k = j) ∧
        t = { s with v := t.v, draws := t.draws } ∧ ∀ r, r ≠ x → t.reg r = s.reg r)

/-- FX07 reads the delay timer and leaves it as it was (R234). -/
def Obligations.ReadDelayTimer : Prop :=
  ∀ (x : Reg) (s : State),
    decode (wordXNN 0xF x 0x07) = .ok (.ldVxDt x) ∧
    ∃ t, exec (.ldVxDt x) s = .next t ∧ t.reg x = s.dt ∧ OnlyRegs [x] s t

/-- FX15 writes the delay timer and FX18 the sound timer, and neither changes anything else, `buzzerRequested` included
(R235, R236). -/
def Obligations.WriteTimers : Prop :=
  ∀ (x : Reg) (s : State),
    decode (wordXNN 0xF x 0x15) = .ok (.ldDtVx x) ∧ decode (wordXNN 0xF x 0x18) = .ok (.ldStVx x) ∧
    exec (.ldDtVx x) s = .next { s with dt := s.reg x } ∧ exec (.ldStVx x) s = .next { s with st := s.reg x }

/-- `TimerTick`: both timers decrement and stop at 0, independently of each other; a timer set to `n` reaches 0 after
exactly `n` ticks; nothing else changes but `buzzerRequested`. That a tick is an operation of its own is the spec's
decision D1, its buzzer D4 and D5 (R263; log 10). -/
def Obligations.TimerTickDecrements : Prop :=
  ∀ s : State,
    perform .timerTick s = .next s.timerTick ∧
    s.timerTick.dt.toNat = s.dt.toNat - 1 ∧ s.timerTick.st.toNat = s.st.toNat - 1 ∧
    s.timerTick.buzzerRequested = (s.buzzerRequested || decide (s.st.toNat = 1)) ∧
    s.timerTick = { s with
      dt := s.timerTick.dt, st := s.timerTick.st, buzzerRequested := s.timerTick.buzzerRequested } ∧
    ∀ n, ((ticks n s).dt = 0 ↔ s.dt.toNat ≤ n) ∧ ((ticks n s).st = 0 ↔ s.st.toNat ≤ n)

/-- One sounding period makes one request, at its end: with `buzzerRequested` clear, `n` ticks leave it set exactly when the
sound timer was not 0 and has run out within them (R264; the tick from 1 to 0 is the spec's decision D4, the sticky bit
D5, log 10). -/
def Obligations.BuzzerAtEndOfPeriod : Prop :=
  ∀ (s : State) (n : Nat), s.buzzerRequested = false →
    ((ticks n s).buzzerRequested = true ↔ 0 < s.st.toNat ∧ s.st.toNat ≤ n)

/-- A step raises the delay timer only by running FX15 (R300, R26). -/
def Obligations.DelayTimerRisesOnlyByFX15 : Prop :=
  ∀ s t : State, step s = .next t → s.dt.toNat < t.dt.toNat →
    s.nextOp = .cycle ∧ ∃ x, AtInstr s (.ldDtVx x) ∧ t.dt = s.reg x

/-- The sound timer and its signal, over steps. A step changes `ST` only by a tick, which takes 1 off, by running FX18, which
writes `VX`, or by `Initialize`. A step sets `buzzerRequested` exactly on the tick that takes `ST` from 1 to 0, and clears it
only by `ClearBuzzer` and `Initialize`, which both leave it false (R26, R30, R263, R264; the tick is the spec's decision D4,
the sticky bit D5, log 10). -/
def Obligations.SoundTimerAndBuzzerChange : Prop :=
  State.reset.buzzerRequested = false ∧
  ∀ s : State, ∃ t, step s = .next t ∧
    (t.st ≠ s.st →
      (s.nextOp = .timerTick ∧ t.st.toNat + 1 = s.st.toNat) ∨
      (s.nextOp = .cycle ∧ ∃ x, AtInstr s (.ldStVx x) ∧ t.st = s.reg x) ∨
      (s.nextOp = .initializeState ∧ t.st = 0)) ∧
    (s.nextOp = .timerTick → s.st.toNat = 1 → t.buzzerRequested = true) ∧
    (s.buzzerRequested = false → t.buzzerRequested = true → s.nextOp = .timerTick ∧ s.st.toNat = 1) ∧
    (s.buzzerRequested = true → t.buzzerRequested = false →
      s.nextOp = .clearBuzzer ∨ s.nextOp = .initializeState) ∧
    (s.nextOp = .clearBuzzer ∨ s.nextOp = .initializeState → t.buzzerRequested = false)

/-- A cycle under `per_cycle` is a cycle and, unless it was halted or faulted, one tick: a run of operations that
`decoupled` allows too (R127, R265, D26). -/
def Obligations.PerCycleIsASchedule : Prop :=
  ∀ s : State, ∃ t u, performAll [.cycle] s = .next t ∧ cycleUnder .perCycle s = .next u ∧
    (t.fault ≠ none → u = t) ∧ (t.fault = none → performAll [.cycle, .timerTick] s = .next u)

/-- Under `per_cycle` the timers tick once directly after a cycle that is not halted and does not fault, whatever it ran, and
at no other time: a halted cycle changes nothing, a tick that is scheduled by itself does not happen, and every other
operation is as under `decoupled`. So every run under `per_cycle` is a run under `decoupled`: one with the same cycles and
host operations in the same order, and ticks only directly after cycles, ends in the same state (R127, R265, D1, D26; that a
tick scheduled by itself is passed over is the model's form, log 9). -/
def Obligations.PerCycleTicksOnlyAfterACycle : Prop :=
  (∀ s : State,
    (s.fault ≠ none → performUnder .perCycle .cycle s = .next s) ∧
    (∃ t, cycle s = .next t ∧ (s.fault = none →
      performUnder .perCycle .cycle s = .next (if t.fault = none then t.timerTick else t))) ∧
    performUnder .perCycle .timerTick s = .next s ∧
    (∀ op, op ≠ .cycle → op ≠ .timerTick → performUnder .perCycle op s = performUnder .decoupled op s)) ∧
  ∀ (ops : List AgentOp) (s : State), ∃ ops' : List AgentOp,
    performAllUnder .perCycle ops s = performAllUnder .decoupled ops' s ∧
    ops'.filter (· ≠ .timerTick) = ops.filter (· ≠ .timerTick) ∧
    ops'.head? ≠ some .timerTick ∧ ∀ k, ops'[k + 1]? = some .timerTick → ops'[k]? = some .cycle

/-! ## Host operations and reset -/

/-- What reset leaves: every element of the spec's state at the value of R36, memory as one reads it. The font bytes are a
parameter (D25, log 5); the values of `buzzerRequested` and `fault` are the spec's decisions D5 and D12. -/
def Obligations.ResetValues : Prop :=
  (∀ a : Addr, State.reset.readMem a = if a.toNat < 80 then Memory.fontByte a.toNat else 0) ∧
  (∀ r, State.reset.reg r = 0) ∧ State.reset.i = 0 ∧ State.reset.pc = 0x0200 ∧
  (∀ k (h : k < 16), State.reset.stack[k] = 0) ∧ State.reset.sp = 0 ∧ State.reset.dt = 0 ∧ State.reset.st = 0 ∧
  (∀ k, State.reset.keyDown k = false) ∧ (∀ x y, State.reset.cell x y = false) ∧
  State.reset.redrawPending = false ∧ State.reset.buzzerRequested = false ∧ State.reset.fault = none

/-- `Initialize` gives the reset state whatever the state before it, halted or not; only the model's own fields, which are
not the core's, stay as they were (R290; log 11). -/
def Obligations.InitializeFromAnyState : Prop :=
  ∀ s : State, ∃ t, perform .initializeState s = .next t ∧
    { t with draws := State.reset.draws, schedule := State.reset.schedule, outputs := State.reset.outputs } =
      State.reset ∧
    t.draws = s.draws ∧ t.schedule = s.schedule ∧ t.outputs = s.outputs

/-- `LoadProgram`: up to 3584 bytes are written from 0x200 upward, every other byte reads as before and nothing else
changes; a longer program is rejected and the state is as before. The caller is told which, through the model's output
list (R291, R254, D13, D28; log 2). -/
def Obligations.LoadProgramWritesOrRejects : Prop :=
  ∀ (s : State) (bytes : List Byte), s.memory.wf →
    ∃ t, perform (.loadProgram bytes) s = .next t ∧
      (∀ _ : bytes.length ≤ 3584,
        (∀ k (hk : k < bytes.length), t.readMem (BitVec.ofNat 12 (0x200 + k)) = bytes[k]) ∧
        (∀ a : Addr, a.toNat < 0x200 ∨ 0x200 + bytes.length ≤ a.toNat → t.readMem a = s.readMem a) ∧
        t = { s with memory := t.memory, outputs := s.outputs ++ [.loadResult .ok] }) ∧
      (3584 < bytes.length → t = { s with outputs := s.outputs ++ [.loadResult .loadError] })

/-- `SetKey`, `ClearRedraw` and `ClearBuzzer` write the one element they name (R270, R271, R272, D5, D23). -/
def Obligations.HostWritesOneElement : Prop :=
  ∀ (s : State) (k : Key) (down : Bool),
    (∃ t, perform (.setKey k down) s = .next t ∧ t.keyDown k = down ∧ (∀ j, j ≠ k → t.keyDown j = s.keyDown j) ∧
      t = { s with keypad := t.keypad }) ∧
    perform .clearRedraw s = .next { s with redrawPending := false } ∧
    perform .clearBuzzer s = .next { s with buzzerRequested := false }

/-! ## The whole machine -/

/-- The writes of the access matrix R33: an instruction leaves every element alone that its row does not list. No
instruction writes the keypad or `buzzerRequested`, and only 2NNN and 00EE write `fault` (R12). -/
def Obligations.WritesOnlyWhatTheMatrixLists : Prop :=
  ∀ (i : Instr) (s t : State), s.memory.wf → exec i s = .next t →
    (∀ r, r ∉ regsWritten i → t.reg r = s.reg r) ∧
    (∀ a, a ∉ addressesWritten s i → t.readMem a = s.readMem a) ∧
    (writesPc i = false → t.pc = s.pc) ∧ (writesI i = false → t.i = s.i) ∧
    (writesSp i = false → t.sp = s.sp ∧ t.fault = s.fault) ∧ (writesStack i = false → t.stack = s.stack) ∧
    (writesDt i = false → t.dt = s.dt) ∧ (writesSt i = false → t.st = s.st) ∧
    (writesDisplay i = false → t.display = s.display ∧ t.redrawPending = s.redrawPending) ∧
    t.keypad = s.keypad ∧ t.buzzerRequested = s.buzzerRequested

/-- No instruction reads the sound timer, `redrawPending` or `buzzerRequested`: of two states that differ in these alone, an
instruction makes two that differ in these alone, and what it leaves in each of the three is either the same in both or what
was there before. Every instruction completes (R26, R29, R30, R234, the reads column of R33). Where the instruction uses a
free value (CXNN; FX0A with several keys down), both states take the SAME draw: the two have one draw counter, and in the
model the value is a function of it (log 3, log 4). No rule says that two executions draw alike (R173); the statement says
that the three elements do not bear on the instruction when the draw is held fixed. -/
def Obligations.NoInstructionReadsSoundTimerOrSignals : Prop :=
  ∀ (i : Instr) (s : State) (b : Byte) (redraw buzzer : Bool),
    ∃ t u, exec i s = .next t ∧
      exec i { s with st := b, redrawPending := redraw, buzzerRequested := buzzer } = .next u ∧
      u = { t with st := u.st, redrawPending := u.redrawPending, buzzerRequested := u.buzzerRequested } ∧
      (u.st = t.st ∨ (u.st = b ∧ t.st = s.st)) ∧
      (u.redrawPending = t.redrawPending ∨ (u.redrawPending = redraw ∧ t.redrawPending = s.redrawPending)) ∧
      u.buzzerRequested = buzzer ∧ t.buzzerRequested = s.buzzerRequested

/-- `redrawPending` is set by every 00E0 and DXYN and by nothing else, and cleared only by `ClearRedraw` and reset, which
both leave it false (R29). -/
def Obligations.RedrawPendingSetAndCleared : Prop :=
  State.reset.redrawPending = false ∧
  ∀ s : State, ∃ t, step s = .next t ∧
    (s.nextOp = .cycle → (AtInstr s .cls ∨ ∃ x y n, AtInstr s (.drw x y n)) → t.redrawPending = true) ∧
    (s.redrawPending = false → t.redrawPending = true →
      s.nextOp = .cycle ∧ (AtInstr s .cls ∨ ∃ x y n, AtInstr s (.drw x y n))) ∧
    (s.redrawPending = true → t.redrawPending = false → s.nextOp = .clearRedraw ∨ s.nextOp = .initializeState) ∧
    (s.nextOp = .clearRedraw ∨ s.nextOp = .initializeState → t.redrawPending = false)

/-- Tier 3, the machine's invariant and its progress: every step from a state with the invariant answers a next state, and
that state has the invariant. Memory stays in canonical form, and a recorded stack fault agrees with the stack it was
raised on (R37, R120, R250 to R252, R255; the canonical form is the model's, log 6). -/
def Obligations.EveryStepGoesOnAndKeepsTheInvariant : Prop :=
  ∀ s : State, s.Inv → ∃ t, step s = .next t ∧ t.Inv

/-- The invariant holds at reset: memory is in canonical form, which is the model's own (log 6), and there is no fault
(R36, R37). -/
def Obligations.ResetHasTheInvariant : Prop := State.reset.Inv
end

