-- ==== Sys2Proof/Laws/Decode.lean ====
section
/-! SUPPORT. The fields of an encoded word, and the words of spec/30_encoding.md R92 written as numbers. -/

namespace Sys2Proof

theorem extract_append_high {n m : Nat} (a : BitVec n) (b : BitVec m) : (a ++ b).extractLsb' m n = a := by
  ext i hi
  simp [BitVec.getLsbD_append, hi]

theorem extract_append_low {n m : Nat} (a : BitVec n) (b : BitVec m) (start len : Nat) (h : start + len ≤ m) :
    (a ++ b).extractLsb' start len = b.extractLsb' start len := by
  ext i hi
  have : start + i < m := by omega
  simp [BitVec.getLsbD_append, this]

@[simp] theorem regField_toFin (r : Reg) : (regField r).toFin = r := rfl

@[simp] theorem regField_toNat (r : Reg) : (regField r).toNat = r.val := rfl

@[simp] theorem fieldFamily_encodeNNN (f : BitVec 4) (nnn : Addr) : fieldFamily (encodeNNN f nnn) = f :=
  extract_append_high f nnn

@[simp] theorem fieldNNN_encodeNNN (f : BitVec 4) (nnn : Addr) : fieldNNN (encodeNNN f nnn) = nnn := by
  have h := extract_append_low f nnn 0 12 (by omega)
  simpa [fieldNNN, encodeNNN] using h

@[simp] theorem fieldFamily_encodeXNN (f : BitVec 4) (x : Reg) (nn : Byte) : fieldFamily (encodeXNN f x nn) = f :=
  extract_append_high f (regField x ++ nn)

@[simp] theorem fieldX_encodeXNN (f : BitVec 4) (x : Reg) (nn : Byte) : fieldX (encodeXNN f x nn) = x := by
  have h := extract_append_low f (regField x ++ nn) 8 4 (by omega)
  have h2 := extract_append_high (regField x) nn
  exact congrArg BitVec.toFin (h.trans h2)

@[simp] theorem fieldNN_encodeXNN (f : BitVec 4) (x : Reg) (nn : Byte) : fieldNN (encodeXNN f x nn) = nn := by
  have h := extract_append_low f (regField x ++ nn) 0 8 (by omega)
  have h2 := extract_append_low (regField x) nn 0 8 (by omega)
  exact h.trans (h2.trans (by simp))

@[simp] theorem fieldFamily_encodeXYN (f : BitVec 4) (x y : Reg) (n : BitVec 4) :
    fieldFamily (encodeXYN f x y n) = f :=
  extract_append_high f (regField x ++ (regField y ++ n))

@[simp] theorem fieldX_encodeXYN (f : BitVec 4) (x y : Reg) (n : BitVec 4) : fieldX (encodeXYN f x y n) = x := by
  have h := extract_append_low f (regField x ++ (regField y ++ n)) 8 4 (by omega)
  have h2 := extract_append_high (regField x) (regField y ++ n)
  exact congrArg BitVec.toFin (h.trans h2)

@[simp] theorem fieldY_encodeXYN (f : BitVec 4) (x y : Reg) (n : BitVec 4) : fieldY (encodeXYN f x y n) = y := by
  have h := extract_append_low f (regField x ++ (regField y ++ n)) 4 4 (by omega)
  have h2 := extract_append_low (regField x) (regField y ++ n) 4 4 (by omega)
  have h3 := extract_append_high (regField y) n
  exact congrArg BitVec.toFin (h.trans (h2.trans h3))

@[simp] theorem fieldN_encodeXYN (f : BitVec 4) (x y : Reg) (n : BitVec 4) : fieldN (encodeXYN f x y n) = n := by
  have h := extract_append_low f (regField x ++ (regField y ++ n)) 0 4 (by omega)
  have h2 := extract_append_low (regField x) (regField y ++ n) 0 4 (by omega)
  have h3 := extract_append_low (regField y) n 0 4 (by omega)
  exact h.trans (h2.trans (h3.trans (by simp)))

theorem append_toNat {n m : Nat} (a : BitVec n) (b : BitVec m) : (a ++ b).toNat = a.toNat * 2 ^ m + b.toNat := by
  rw [BitVec.toNat_append, Nat.shiftLeft_eq, Nat.mul_comm, Nat.two_pow_add_eq_or_of_lt b.isLt]

/-- Format NNN as a number: `family * 0x1000 + NNN` (R91). -/
theorem encodeNNN_eq_ofNat (f : BitVec 4) (nnn : Addr) :
    encodeNNN f nnn = BitVec.ofNat 16 (f.toNat * 0x1000 + nnn.toNat) := by
  apply BitVec.eq_of_toNat_eq
  have := f.isLt
  have := nnn.isLt
  rw [encodeNNN, append_toNat, BitVec.toNat_ofNat, Nat.mod_eq_of_lt] <;> omega

/-- Formats XNN and XFN as a number: `family * 0x1000 + X * 0x100 + NN` (R91). -/
theorem encodeXNN_eq_ofNat (f : BitVec 4) (x : Reg) (nn : Byte) :
    encodeXNN f x nn = BitVec.ofNat 16 (f.toNat * 0x1000 + x.val * 0x100 + nn.toNat) := by
  apply BitVec.eq_of_toNat_eq
  have := f.isLt
  have := x.isLt
  have := nn.isLt
  rw [encodeXNN, append_toNat, append_toNat, regField_toNat, BitVec.toNat_ofNat, Nat.mod_eq_of_lt] <;> omega

/-- Format XYN as a number: `family * 0x1000 + X * 0x100 + Y * 0x10 + N` (R91). -/
theorem encodeXYN_eq_ofNat (f : BitVec 4) (x y : Reg) (n : BitVec 4) :
    encodeXYN f x y n = BitVec.ofNat 16 (f.toNat * 0x1000 + x.val * 0x100 + y.val * 0x10 + n.toNat) := by
  apply BitVec.eq_of_toNat_eq
  have := f.isLt
  have := x.isLt
  have := y.isLt
  have := n.isLt
  rw [encodeXYN, append_toNat, append_toNat, append_toNat, regField_toNat, regField_toNat, BitVec.toNat_ofNat,
    Nat.mod_eq_of_lt] <;> omega

/-- Every word is format NNN of its own fields. -/
theorem encodeNNN_fields (w : Word) : encodeNNN (fieldFamily w) (fieldNNN w) = w := by
  apply BitVec.eq_of_toNat_eq
  have := w.isLt
  rw [encodeNNN, append_toNat]
  simp [fieldFamily, fieldNNN, Nat.shiftRight_eq_div_pow]
  omega

/-- Every word is format XNN of its own fields. -/
theorem encodeXNN_fields (w : Word) : encodeXNN (fieldFamily w) (fieldX w) (fieldNN w) = w := by
  apply BitVec.eq_of_toNat_eq
  have := w.isLt
  rw [encodeXNN, append_toNat, append_toNat]
  simp [fieldFamily, fieldX, fieldNN, Nat.shiftRight_eq_div_pow]
  omega

/-- Every word is format XYN of its own fields. -/
theorem encodeXYN_fields (w : Word) : encodeXYN (fieldFamily w) (fieldX w) (fieldY w) (fieldN w) = w := by
  apply BitVec.eq_of_toNat_eq
  have := w.isLt
  rw [encodeXYN, append_toNat, append_toNat, append_toNat]
  simp [fieldFamily, fieldX, fieldY, fieldN, Nat.shiftRight_eq_div_pow]
  omega

/-- The bytes of a word, combined, are the word (R63). -/
@[simp] theorem opcodeOf_bytes (w : Word) : opcodeOf (highByte w) (lowByte w) = w := by
  apply BitVec.eq_of_toNat_eq
  have := w.isLt
  rw [opcodeOf, append_toNat]
  simp [highByte, lowByte, Nat.shiftRight_eq_div_pow]
  omega

/-- The opcode of two bytes as a number: `hi * 256 + lo` (R63, R120). -/
theorem opcodeOf_eq_ofNat (hi lo : Byte) : opcodeOf hi lo = BitVec.ofNat 16 (hi.toNat * 256 + lo.toNat) := by
  apply BitVec.eq_of_toNat_eq
  have := hi.isLt
  have := lo.isLt
  rw [opcodeOf, append_toNat, BitVec.toNat_ofNat, Nat.mod_eq_of_lt] <;> omega

end Sys2Proof
end

