-- ==== Sys2Proof/Laws/Memory.lean ====
section
/-! SUPPORT. The laws of memory: reading back a write, leaving every other byte alone, and the canonical form, which
every operation keeps. -/

namespace Sys2Proof.Machine

/-- Cells with rising keys: the byte put at a key is found there. -/
theorem Memory.lookup_insert_self (a : Nat) (v : Byte) :
    ∀ cells : List Host.Cell, cells.Pairwise (fun p q => p.1 < q.1) → lookup a (insert a v cells) = v
  | [], _ => by
    simp only [insert]
    split
    · next h => simp [lookup, h]
    · simp [lookup]
  | (b, w) :: rest, h => by
    obtain ⟨hb, hr⟩ := List.pairwise_cons.mp h
    simp only [insert]
    split
    · next hab =>
      split
      · next hv =>
        subst hab
        cases rest with
        | nil => simp [lookup, hv]
        | cons c cs =>
          have := hb c (by simp)
          simp [lookup, hv, Nat.ne_of_lt this, this]
      · simp [lookup]
    · next hab =>
      split
      · next hlt =>
        split
        · next hv => simp [lookup, hv, hab, hlt]
        · simp [lookup]
      · next hlt => simp [lookup, hab, hlt, lookup_insert_self a v rest hr]

/-- Cells with rising keys: putting a byte at a key changes no other key's byte. -/
theorem Memory.lookup_insert_of_ne (a c : Nat) (v : Byte) (hc : c ≠ a) :
    ∀ cells : List Host.Cell, cells.Pairwise (fun p q => p.1 < q.1) → lookup c (insert a v cells) = lookup c cells
  | [], _ => by
    simp only [insert]
    split
    · rfl
    · simp [lookup, hc]
  | (b, w) :: rest, h => by
    obtain ⟨hb, hr⟩ := List.pairwise_cons.mp h
    have ih := lookup_insert_of_ne a c v hc rest hr
    simp only [insert]
    split
    · next hab =>
      subst hab
      split
      · simp only [lookup, hc, if_false]
        split
        · next hlt =>
          cases rest with
          | nil => rfl
          | cons d ds =>
            have : c < d.1 := Nat.lt_trans hlt (hb d (by simp))
            simp [lookup, Nat.ne_of_lt this, this]
        · rfl
      · simp [lookup, hc]
    · next hab =>
      split
      · next hlt =>
        split
        · rfl
        · simp only [lookup, hc, if_false]
          by_cases hca : c < a
          · simp [hca, Nat.ne_of_lt (Nat.lt_trans hca hlt), Nat.lt_trans hca hlt]
          · simp [hca]
      · simp [lookup, ih]

/-- A write is read back (R62). -/
theorem Memory.read_write_self {m : Memory} (h : m.wf) (a : Addr) (v : Byte) : (m.write a v).read a = v :=
  lookup_insert_self a.toNat v m.cells h.1

/-- A write leaves every other byte alone (R62). -/
theorem Memory.read_write_of_ne {m : Memory} (h : m.wf) {a c : Addr} (v : Byte) (hc : c ≠ a) :
    (m.write a v).read c = m.read c :=
  lookup_insert_of_ne a.toNat c.toNat v (fun e => hc (BitVec.eq_of_toNat_eq e)) m.cells h.1

/-- Where a cell of the new list comes from. -/
theorem Memory.mem_insert {a : Nat} {v : Byte} {c : Host.Cell} :
    ∀ {cells : List Host.Cell}, c ∈ insert a v cells → c ∈ cells ∨ (c = (a, v) ∧ v ≠ resetByte a)
  | [], h => by
    simp only [insert] at h
    split at h
    · simp at h
    · next hv => exact .inr ⟨by simpa using h, hv⟩
  | (b, w) :: rest, h => by
    simp only [insert] at h
    split at h
    · split at h
      · exact .inl (List.mem_cons_of_mem _ h)
      · next hv =>
        rcases List.mem_cons.mp h with h | h
        · exact .inr ⟨h, hv⟩
        · exact .inl (List.mem_cons_of_mem _ h)
    · split at h
      · split at h
        · exact .inl h
        · next hv =>
          rcases List.mem_cons.mp h with h | h
          · exact .inr ⟨h, hv⟩
          · exact .inl h
      · rcases List.mem_cons.mp h with h | h
        · exact .inl (h ▸ List.mem_cons_self)
        · rcases mem_insert h with h | h
          · exact .inl (List.mem_cons_of_mem _ h)
          · exact .inr h

/-- The keys stay rising. -/
theorem Memory.insert_pairwise (a : Nat) (v : Byte) :
    ∀ cells : List Host.Cell, cells.Pairwise (fun p q => p.1 < q.1) →
      (insert a v cells).Pairwise (fun p q => p.1 < q.1)
  | [], _ => by
    simp only [insert]
    split <;> simp
  | (b, w) :: rest, h => by
    obtain ⟨hb, hr⟩ := List.pairwise_cons.mp h
    simp only [insert]
    split
    · next hab =>
      subst hab
      split
      · exact hr
      · exact List.pairwise_cons.mpr ⟨hb, hr⟩
    · next hab =>
      split
      · next hlt =>
        split
        · exact h
        · refine List.pairwise_cons.mpr ⟨fun q hq => ?_, h⟩
          rcases List.mem_cons.mp hq with rfl | hq
          · exact hlt
          · exact Nat.lt_trans hlt (hb q hq)
      · next hlt =>
        refine List.pairwise_cons.mpr ⟨fun q hq => ?_, insert_pairwise a v rest hr⟩
        rcases mem_insert hq with hq | ⟨rfl, _⟩
        · exact hb q hq
        · show b < a
          omega

/-- A write keeps the canonical form. -/
theorem Memory.write_wf {m : Memory} (h : m.wf) (a : Addr) (v : Byte) : (m.write a v).wf := by
  refine ⟨insert_pairwise _ _ _ h.1, fun c hc => ?_⟩
  rcases mem_insert hc with hc | ⟨rfl, hv⟩
  · exact h.2 c hc
  · exact ⟨a.isLt, hv⟩

/-- A run of writes keeps the canonical form. -/
theorem Memory.writeBytes_wf : ∀ (bytes : List Byte) (a : Addr) {m : Memory}, m.wf → (m.writeBytes a bytes).wf
  | [], _, _, h => h
  | b :: bs, a, _, h => writeBytes_wf bs (a + 1) (write_wf h a b)

/-- The empty memory is in canonical form. -/
theorem Memory.empty_wf : (Memory.mk []).wf := ⟨List.Pairwise.nil, by simp⟩

/-- What an address that is not listed reads as (R36). -/
theorem Memory.empty_read (a : Addr) : (Memory.mk []).read a = resetByte a.toNat := rfl

/-- Loading a program keeps the canonical form. -/
theorem State.loadProgram_wf {s : State} (h : s.memory.wf) (bytes : List Byte) :
    (s.loadProgram bytes).2.memory.wf := by
  unfold State.loadProgram
  split
  · exact h
  · exact Memory.writeBytes_wf bytes _ h

end Sys2Proof.Machine
end

