-- ==== Sys2Proof/Laws/State.lean ====
section
/-! SUPPORT. What each field reads after each update of the state: one lemma per field and update, true by definition, so
that no later proof unfolds a record update. -/

namespace Sys2Proof.Machine

@[simp] theorem State.setReg_memory (s : State) (r : Reg) (b : Byte) : (s.setReg r b).memory = s.memory := rfl
@[simp] theorem State.setReg_v (s : State) (r : Reg) (b : Byte) : (s.setReg r b).v = s.v.set r.val b := rfl
@[simp] theorem State.setReg_i (s : State) (r : Reg) (b : Byte) : (s.setReg r b).i = s.i := rfl
@[simp] theorem State.setReg_pc (s : State) (r : Reg) (b : Byte) : (s.setReg r b).pc = s.pc := rfl
@[simp] theorem State.setReg_stack (s : State) (r : Reg) (b : Byte) : (s.setReg r b).stack = s.stack := rfl
@[simp] theorem State.setReg_sp (s : State) (r : Reg) (b : Byte) : (s.setReg r b).sp = s.sp := rfl
@[simp] theorem State.setReg_dt (s : State) (r : Reg) (b : Byte) : (s.setReg r b).dt = s.dt := rfl
@[simp] theorem State.setReg_st (s : State) (r : Reg) (b : Byte) : (s.setReg r b).st = s.st := rfl
@[simp] theorem State.setReg_keypad (s : State) (r : Reg) (b : Byte) : (s.setReg r b).keypad = s.keypad := rfl
@[simp] theorem State.setReg_display (s : State) (r : Reg) (b : Byte) : (s.setReg r b).display = s.display := rfl
@[simp] theorem State.setReg_redrawPending (s : State) (r : Reg) (b : Byte) : (s.setReg r b).redrawPending = s.redrawPending := rfl
@[simp] theorem State.setReg_buzzerRequested (s : State) (r : Reg) (b : Byte) : (s.setReg r b).buzzerRequested = s.buzzerRequested := rfl
@[simp] theorem State.setReg_fault (s : State) (r : Reg) (b : Byte) : (s.setReg r b).fault = s.fault := rfl
@[simp] theorem State.setReg_draws (s : State) (r : Reg) (b : Byte) : (s.setReg r b).draws = s.draws := rfl
@[simp] theorem State.setReg_schedule (s : State) (r : Reg) (b : Byte) : (s.setReg r b).schedule = s.schedule := rfl
@[simp] theorem State.setReg_outputs (s : State) (r : Reg) (b : Byte) : (s.setReg r b).outputs = s.outputs := rfl

@[simp] theorem State.writeMem_memory (s : State) (a : Addr) (b : Byte) : (s.writeMem a b).memory = s.memory.write a b := rfl
@[simp] theorem State.writeMem_v (s : State) (a : Addr) (b : Byte) : (s.writeMem a b).v = s.v := rfl
@[simp] theorem State.writeMem_i (s : State) (a : Addr) (b : Byte) : (s.writeMem a b).i = s.i := rfl
@[simp] theorem State.writeMem_pc (s : State) (a : Addr) (b : Byte) : (s.writeMem a b).pc = s.pc := rfl
@[simp] theorem State.writeMem_stack (s : State) (a : Addr) (b : Byte) : (s.writeMem a b).stack = s.stack := rfl
@[simp] theorem State.writeMem_sp (s : State) (a : Addr) (b : Byte) : (s.writeMem a b).sp = s.sp := rfl
@[simp] theorem State.writeMem_dt (s : State) (a : Addr) (b : Byte) : (s.writeMem a b).dt = s.dt := rfl
@[simp] theorem State.writeMem_st (s : State) (a : Addr) (b : Byte) : (s.writeMem a b).st = s.st := rfl
@[simp] theorem State.writeMem_keypad (s : State) (a : Addr) (b : Byte) : (s.writeMem a b).keypad = s.keypad := rfl
@[simp] theorem State.writeMem_display (s : State) (a : Addr) (b : Byte) : (s.writeMem a b).display = s.display := rfl
@[simp] theorem State.writeMem_redrawPending (s : State) (a : Addr) (b : Byte) : (s.writeMem a b).redrawPending = s.redrawPending := rfl
@[simp] theorem State.writeMem_buzzerRequested (s : State) (a : Addr) (b : Byte) : (s.writeMem a b).buzzerRequested = s.buzzerRequested := rfl
@[simp] theorem State.writeMem_fault (s : State) (a : Addr) (b : Byte) : (s.writeMem a b).fault = s.fault := rfl
@[simp] theorem State.writeMem_draws (s : State) (a : Addr) (b : Byte) : (s.writeMem a b).draws = s.draws := rfl
@[simp] theorem State.writeMem_schedule (s : State) (a : Addr) (b : Byte) : (s.writeMem a b).schedule = s.schedule := rfl
@[simp] theorem State.writeMem_outputs (s : State) (a : Addr) (b : Byte) : (s.writeMem a b).outputs = s.outputs := rfl

@[simp] theorem State.setI_memory (s : State) (w : Word) : (s.setI w).memory = s.memory := rfl
@[simp] theorem State.setI_v (s : State) (w : Word) : (s.setI w).v = s.v := rfl
@[simp] theorem State.setI_i (s : State) (w : Word) : (s.setI w).i = w := rfl
@[simp] theorem State.setI_pc (s : State) (w : Word) : (s.setI w).pc = s.pc := rfl
@[simp] theorem State.setI_stack (s : State) (w : Word) : (s.setI w).stack = s.stack := rfl
@[simp] theorem State.setI_sp (s : State) (w : Word) : (s.setI w).sp = s.sp := rfl
@[simp] theorem State.setI_dt (s : State) (w : Word) : (s.setI w).dt = s.dt := rfl
@[simp] theorem State.setI_st (s : State) (w : Word) : (s.setI w).st = s.st := rfl
@[simp] theorem State.setI_keypad (s : State) (w : Word) : (s.setI w).keypad = s.keypad := rfl
@[simp] theorem State.setI_display (s : State) (w : Word) : (s.setI w).display = s.display := rfl
@[simp] theorem State.setI_redrawPending (s : State) (w : Word) : (s.setI w).redrawPending = s.redrawPending := rfl
@[simp] theorem State.setI_buzzerRequested (s : State) (w : Word) : (s.setI w).buzzerRequested = s.buzzerRequested := rfl
@[simp] theorem State.setI_fault (s : State) (w : Word) : (s.setI w).fault = s.fault := rfl
@[simp] theorem State.setI_draws (s : State) (w : Word) : (s.setI w).draws = s.draws := rfl
@[simp] theorem State.setI_schedule (s : State) (w : Word) : (s.setI w).schedule = s.schedule := rfl
@[simp] theorem State.setI_outputs (s : State) (w : Word) : (s.setI w).outputs = s.outputs := rfl

@[simp] theorem State.setPc_memory (s : State) (w : Word) : (s.setPc w).memory = s.memory := rfl
@[simp] theorem State.setPc_v (s : State) (w : Word) : (s.setPc w).v = s.v := rfl
@[simp] theorem State.setPc_i (s : State) (w : Word) : (s.setPc w).i = s.i := rfl
@[simp] theorem State.setPc_pc (s : State) (w : Word) : (s.setPc w).pc = w := rfl
@[simp] theorem State.setPc_stack (s : State) (w : Word) : (s.setPc w).stack = s.stack := rfl
@[simp] theorem State.setPc_sp (s : State) (w : Word) : (s.setPc w).sp = s.sp := rfl
@[simp] theorem State.setPc_dt (s : State) (w : Word) : (s.setPc w).dt = s.dt := rfl
@[simp] theorem State.setPc_st (s : State) (w : Word) : (s.setPc w).st = s.st := rfl
@[simp] theorem State.setPc_keypad (s : State) (w : Word) : (s.setPc w).keypad = s.keypad := rfl
@[simp] theorem State.setPc_display (s : State) (w : Word) : (s.setPc w).display = s.display := rfl
@[simp] theorem State.setPc_redrawPending (s : State) (w : Word) : (s.setPc w).redrawPending = s.redrawPending := rfl
@[simp] theorem State.setPc_buzzerRequested (s : State) (w : Word) : (s.setPc w).buzzerRequested = s.buzzerRequested := rfl
@[simp] theorem State.setPc_fault (s : State) (w : Word) : (s.setPc w).fault = s.fault := rfl
@[simp] theorem State.setPc_draws (s : State) (w : Word) : (s.setPc w).draws = s.draws := rfl
@[simp] theorem State.setPc_schedule (s : State) (w : Word) : (s.setPc w).schedule = s.schedule := rfl
@[simp] theorem State.setPc_outputs (s : State) (w : Word) : (s.setPc w).outputs = s.outputs := rfl

@[simp] theorem State.advancePc_memory (s : State) : (s.advancePc).memory = s.memory := rfl
@[simp] theorem State.advancePc_v (s : State) : (s.advancePc).v = s.v := rfl
@[simp] theorem State.advancePc_i (s : State) : (s.advancePc).i = s.i := rfl
@[simp] theorem State.advancePc_pc (s : State) : (s.advancePc).pc = s.pc + 2 := rfl
@[simp] theorem State.advancePc_stack (s : State) : (s.advancePc).stack = s.stack := rfl
@[simp] theorem State.advancePc_sp (s : State) : (s.advancePc).sp = s.sp := rfl
@[simp] theorem State.advancePc_dt (s : State) : (s.advancePc).dt = s.dt := rfl
@[simp] theorem State.advancePc_st (s : State) : (s.advancePc).st = s.st := rfl
@[simp] theorem State.advancePc_keypad (s : State) : (s.advancePc).keypad = s.keypad := rfl
@[simp] theorem State.advancePc_display (s : State) : (s.advancePc).display = s.display := rfl
@[simp] theorem State.advancePc_redrawPending (s : State) : (s.advancePc).redrawPending = s.redrawPending := rfl
@[simp] theorem State.advancePc_buzzerRequested (s : State) : (s.advancePc).buzzerRequested = s.buzzerRequested := rfl
@[simp] theorem State.advancePc_fault (s : State) : (s.advancePc).fault = s.fault := rfl
@[simp] theorem State.advancePc_draws (s : State) : (s.advancePc).draws = s.draws := rfl
@[simp] theorem State.advancePc_schedule (s : State) : (s.advancePc).schedule = s.schedule := rfl
@[simp] theorem State.advancePc_outputs (s : State) : (s.advancePc).outputs = s.outputs := rfl

@[simp] theorem State.retreatPc_memory (s : State) : (s.retreatPc).memory = s.memory := rfl
@[simp] theorem State.retreatPc_v (s : State) : (s.retreatPc).v = s.v := rfl
@[simp] theorem State.retreatPc_i (s : State) : (s.retreatPc).i = s.i := rfl
@[simp] theorem State.retreatPc_pc (s : State) : (s.retreatPc).pc = s.pc - 2 := rfl
@[simp] theorem State.retreatPc_stack (s : State) : (s.retreatPc).stack = s.stack := rfl
@[simp] theorem State.retreatPc_sp (s : State) : (s.retreatPc).sp = s.sp := rfl
@[simp] theorem State.retreatPc_dt (s : State) : (s.retreatPc).dt = s.dt := rfl
@[simp] theorem State.retreatPc_st (s : State) : (s.retreatPc).st = s.st := rfl
@[simp] theorem State.retreatPc_keypad (s : State) : (s.retreatPc).keypad = s.keypad := rfl
@[simp] theorem State.retreatPc_display (s : State) : (s.retreatPc).display = s.display := rfl
@[simp] theorem State.retreatPc_redrawPending (s : State) : (s.retreatPc).redrawPending = s.redrawPending := rfl
@[simp] theorem State.retreatPc_buzzerRequested (s : State) : (s.retreatPc).buzzerRequested = s.buzzerRequested := rfl
@[simp] theorem State.retreatPc_fault (s : State) : (s.retreatPc).fault = s.fault := rfl
@[simp] theorem State.retreatPc_draws (s : State) : (s.retreatPc).draws = s.draws := rfl
@[simp] theorem State.retreatPc_schedule (s : State) : (s.retreatPc).schedule = s.schedule := rfl
@[simp] theorem State.retreatPc_outputs (s : State) : (s.retreatPc).outputs = s.outputs := rfl

@[simp] theorem State.setDt_memory (s : State) (b : Byte) : (s.setDt b).memory = s.memory := rfl
@[simp] theorem State.setDt_v (s : State) (b : Byte) : (s.setDt b).v = s.v := rfl
@[simp] theorem State.setDt_i (s : State) (b : Byte) : (s.setDt b).i = s.i := rfl
@[simp] theorem State.setDt_pc (s : State) (b : Byte) : (s.setDt b).pc = s.pc := rfl
@[simp] theorem State.setDt_stack (s : State) (b : Byte) : (s.setDt b).stack = s.stack := rfl
@[simp] theorem State.setDt_sp (s : State) (b : Byte) : (s.setDt b).sp = s.sp := rfl
@[simp] theorem State.setDt_dt (s : State) (b : Byte) : (s.setDt b).dt = b := rfl
@[simp] theorem State.setDt_st (s : State) (b : Byte) : (s.setDt b).st = s.st := rfl
@[simp] theorem State.setDt_keypad (s : State) (b : Byte) : (s.setDt b).keypad = s.keypad := rfl
@[simp] theorem State.setDt_display (s : State) (b : Byte) : (s.setDt b).display = s.display := rfl
@[simp] theorem State.setDt_redrawPending (s : State) (b : Byte) : (s.setDt b).redrawPending = s.redrawPending := rfl
@[simp] theorem State.setDt_buzzerRequested (s : State) (b : Byte) : (s.setDt b).buzzerRequested = s.buzzerRequested := rfl
@[simp] theorem State.setDt_fault (s : State) (b : Byte) : (s.setDt b).fault = s.fault := rfl
@[simp] theorem State.setDt_draws (s : State) (b : Byte) : (s.setDt b).draws = s.draws := rfl
@[simp] theorem State.setDt_schedule (s : State) (b : Byte) : (s.setDt b).schedule = s.schedule := rfl
@[simp] theorem State.setDt_outputs (s : State) (b : Byte) : (s.setDt b).outputs = s.outputs := rfl

@[simp] theorem State.setSt_memory (s : State) (b : Byte) : (s.setSt b).memory = s.memory := rfl
@[simp] theorem State.setSt_v (s : State) (b : Byte) : (s.setSt b).v = s.v := rfl
@[simp] theorem State.setSt_i (s : State) (b : Byte) : (s.setSt b).i = s.i := rfl
@[simp] theorem State.setSt_pc (s : State) (b : Byte) : (s.setSt b).pc = s.pc := rfl
@[simp] theorem State.setSt_stack (s : State) (b : Byte) : (s.setSt b).stack = s.stack := rfl
@[simp] theorem State.setSt_sp (s : State) (b : Byte) : (s.setSt b).sp = s.sp := rfl
@[simp] theorem State.setSt_dt (s : State) (b : Byte) : (s.setSt b).dt = s.dt := rfl
@[simp] theorem State.setSt_st (s : State) (b : Byte) : (s.setSt b).st = b := rfl
@[simp] theorem State.setSt_keypad (s : State) (b : Byte) : (s.setSt b).keypad = s.keypad := rfl
@[simp] theorem State.setSt_display (s : State) (b : Byte) : (s.setSt b).display = s.display := rfl
@[simp] theorem State.setSt_redrawPending (s : State) (b : Byte) : (s.setSt b).redrawPending = s.redrawPending := rfl
@[simp] theorem State.setSt_buzzerRequested (s : State) (b : Byte) : (s.setSt b).buzzerRequested = s.buzzerRequested := rfl
@[simp] theorem State.setSt_fault (s : State) (b : Byte) : (s.setSt b).fault = s.fault := rfl
@[simp] theorem State.setSt_draws (s : State) (b : Byte) : (s.setSt b).draws = s.draws := rfl
@[simp] theorem State.setSt_schedule (s : State) (b : Byte) : (s.setSt b).schedule = s.schedule := rfl
@[simp] theorem State.setSt_outputs (s : State) (b : Byte) : (s.setSt b).outputs = s.outputs := rfl

@[simp] theorem State.raise_memory (s : State) (c : FaultCause) : (s.raise c).memory = s.memory := rfl
@[simp] theorem State.raise_v (s : State) (c : FaultCause) : (s.raise c).v = s.v := rfl
@[simp] theorem State.raise_i (s : State) (c : FaultCause) : (s.raise c).i = s.i := rfl
@[simp] theorem State.raise_pc (s : State) (c : FaultCause) : (s.raise c).pc = s.pc := rfl
@[simp] theorem State.raise_stack (s : State) (c : FaultCause) : (s.raise c).stack = s.stack := rfl
@[simp] theorem State.raise_sp (s : State) (c : FaultCause) : (s.raise c).sp = s.sp := rfl
@[simp] theorem State.raise_dt (s : State) (c : FaultCause) : (s.raise c).dt = s.dt := rfl
@[simp] theorem State.raise_st (s : State) (c : FaultCause) : (s.raise c).st = s.st := rfl
@[simp] theorem State.raise_keypad (s : State) (c : FaultCause) : (s.raise c).keypad = s.keypad := rfl
@[simp] theorem State.raise_display (s : State) (c : FaultCause) : (s.raise c).display = s.display := rfl
@[simp] theorem State.raise_redrawPending (s : State) (c : FaultCause) : (s.raise c).redrawPending = s.redrawPending := rfl
@[simp] theorem State.raise_buzzerRequested (s : State) (c : FaultCause) : (s.raise c).buzzerRequested = s.buzzerRequested := rfl
@[simp] theorem State.raise_fault (s : State) (c : FaultCause) : (s.raise c).fault = some c := rfl
@[simp] theorem State.raise_draws (s : State) (c : FaultCause) : (s.raise c).draws = s.draws := rfl
@[simp] theorem State.raise_schedule (s : State) (c : FaultCause) : (s.raise c).schedule = s.schedule := rfl
@[simp] theorem State.raise_outputs (s : State) (c : FaultCause) : (s.raise c).outputs = s.outputs := rfl

@[simp] theorem State.emit_memory (s : State) (o : Output) : (s.emit o).memory = s.memory := rfl
@[simp] theorem State.emit_v (s : State) (o : Output) : (s.emit o).v = s.v := rfl
@[simp] theorem State.emit_i (s : State) (o : Output) : (s.emit o).i = s.i := rfl
@[simp] theorem State.emit_pc (s : State) (o : Output) : (s.emit o).pc = s.pc := rfl
@[simp] theorem State.emit_stack (s : State) (o : Output) : (s.emit o).stack = s.stack := rfl
@[simp] theorem State.emit_sp (s : State) (o : Output) : (s.emit o).sp = s.sp := rfl
@[simp] theorem State.emit_dt (s : State) (o : Output) : (s.emit o).dt = s.dt := rfl
@[simp] theorem State.emit_st (s : State) (o : Output) : (s.emit o).st = s.st := rfl
@[simp] theorem State.emit_keypad (s : State) (o : Output) : (s.emit o).keypad = s.keypad := rfl
@[simp] theorem State.emit_display (s : State) (o : Output) : (s.emit o).display = s.display := rfl
@[simp] theorem State.emit_redrawPending (s : State) (o : Output) : (s.emit o).redrawPending = s.redrawPending := rfl
@[simp] theorem State.emit_buzzerRequested (s : State) (o : Output) : (s.emit o).buzzerRequested = s.buzzerRequested := rfl
@[simp] theorem State.emit_fault (s : State) (o : Output) : (s.emit o).fault = s.fault := rfl
@[simp] theorem State.emit_draws (s : State) (o : Output) : (s.emit o).draws = s.draws := rfl
@[simp] theorem State.emit_schedule (s : State) (o : Output) : (s.emit o).schedule = s.schedule := rfl
@[simp] theorem State.emit_outputs (s : State) (o : Output) : (s.emit o).outputs = s.outputs ++ [o] := rfl

@[simp] theorem State.consumeDraw_memory (s : State) : (s.consumeDraw).memory = s.memory := rfl
@[simp] theorem State.consumeDraw_v (s : State) : (s.consumeDraw).v = s.v := rfl
@[simp] theorem State.consumeDraw_i (s : State) : (s.consumeDraw).i = s.i := rfl
@[simp] theorem State.consumeDraw_pc (s : State) : (s.consumeDraw).pc = s.pc := rfl
@[simp] theorem State.consumeDraw_stack (s : State) : (s.consumeDraw).stack = s.stack := rfl
@[simp] theorem State.consumeDraw_sp (s : State) : (s.consumeDraw).sp = s.sp := rfl
@[simp] theorem State.consumeDraw_dt (s : State) : (s.consumeDraw).dt = s.dt := rfl
@[simp] theorem State.consumeDraw_st (s : State) : (s.consumeDraw).st = s.st := rfl
@[simp] theorem State.consumeDraw_keypad (s : State) : (s.consumeDraw).keypad = s.keypad := rfl
@[simp] theorem State.consumeDraw_display (s : State) : (s.consumeDraw).display = s.display := rfl
@[simp] theorem State.consumeDraw_redrawPending (s : State) : (s.consumeDraw).redrawPending = s.redrawPending := rfl
@[simp] theorem State.consumeDraw_buzzerRequested (s : State) : (s.consumeDraw).buzzerRequested = s.buzzerRequested := rfl
@[simp] theorem State.consumeDraw_fault (s : State) : (s.consumeDraw).fault = s.fault := rfl
@[simp] theorem State.consumeDraw_draws (s : State) : (s.consumeDraw).draws = s.draws + 1 := rfl
@[simp] theorem State.consumeDraw_schedule (s : State) : (s.consumeDraw).schedule = s.schedule := rfl
@[simp] theorem State.consumeDraw_outputs (s : State) : (s.consumeDraw).outputs = s.outputs := rfl

@[simp] theorem State.showDisplay_memory (s : State) (d : Display) : (s.showDisplay d).memory = s.memory := rfl
@[simp] theorem State.showDisplay_v (s : State) (d : Display) : (s.showDisplay d).v = s.v := rfl
@[simp] theorem State.showDisplay_i (s : State) (d : Display) : (s.showDisplay d).i = s.i := rfl
@[simp] theorem State.showDisplay_pc (s : State) (d : Display) : (s.showDisplay d).pc = s.pc := rfl
@[simp] theorem State.showDisplay_stack (s : State) (d : Display) : (s.showDisplay d).stack = s.stack := rfl
@[simp] theorem State.showDisplay_sp (s : State) (d : Display) : (s.showDisplay d).sp = s.sp := rfl
@[simp] theorem State.showDisplay_dt (s : State) (d : Display) : (s.showDisplay d).dt = s.dt := rfl
@[simp] theorem State.showDisplay_st (s : State) (d : Display) : (s.showDisplay d).st = s.st := rfl
@[simp] theorem State.showDisplay_keypad (s : State) (d : Display) : (s.showDisplay d).keypad = s.keypad := rfl
@[simp] theorem State.showDisplay_display (s : State) (d : Display) : (s.showDisplay d).display = d := rfl
@[simp] theorem State.showDisplay_redrawPending (s : State) (d : Display) : (s.showDisplay d).redrawPending = true := rfl
@[simp] theorem State.showDisplay_buzzerRequested (s : State) (d : Display) : (s.showDisplay d).buzzerRequested = s.buzzerRequested := rfl
@[simp] theorem State.showDisplay_fault (s : State) (d : Display) : (s.showDisplay d).fault = s.fault := rfl
@[simp] theorem State.showDisplay_draws (s : State) (d : Display) : (s.showDisplay d).draws = s.draws := rfl
@[simp] theorem State.showDisplay_schedule (s : State) (d : Display) : (s.showDisplay d).schedule = s.schedule := rfl
@[simp] theorem State.showDisplay_outputs (s : State) (d : Display) : (s.showDisplay d).outputs = s.outputs := rfl

@[simp] theorem State.setKey_memory (s : State) (k : Key) (b : Bool) : (s.setKey k b).memory = s.memory := rfl
@[simp] theorem State.setKey_v (s : State) (k : Key) (b : Bool) : (s.setKey k b).v = s.v := rfl
@[simp] theorem State.setKey_i (s : State) (k : Key) (b : Bool) : (s.setKey k b).i = s.i := rfl
@[simp] theorem State.setKey_pc (s : State) (k : Key) (b : Bool) : (s.setKey k b).pc = s.pc := rfl
@[simp] theorem State.setKey_stack (s : State) (k : Key) (b : Bool) : (s.setKey k b).stack = s.stack := rfl
@[simp] theorem State.setKey_sp (s : State) (k : Key) (b : Bool) : (s.setKey k b).sp = s.sp := rfl
@[simp] theorem State.setKey_dt (s : State) (k : Key) (b : Bool) : (s.setKey k b).dt = s.dt := rfl
@[simp] theorem State.setKey_st (s : State) (k : Key) (b : Bool) : (s.setKey k b).st = s.st := rfl
@[simp] theorem State.setKey_keypad (s : State) (k : Key) (b : Bool) : (s.setKey k b).keypad = s.keypad.set k.val b := rfl
@[simp] theorem State.setKey_display (s : State) (k : Key) (b : Bool) : (s.setKey k b).display = s.display := rfl
@[simp] theorem State.setKey_redrawPending (s : State) (k : Key) (b : Bool) : (s.setKey k b).redrawPending = s.redrawPending := rfl
@[simp] theorem State.setKey_buzzerRequested (s : State) (k : Key) (b : Bool) : (s.setKey k b).buzzerRequested = s.buzzerRequested := rfl
@[simp] theorem State.setKey_fault (s : State) (k : Key) (b : Bool) : (s.setKey k b).fault = s.fault := rfl
@[simp] theorem State.setKey_draws (s : State) (k : Key) (b : Bool) : (s.setKey k b).draws = s.draws := rfl
@[simp] theorem State.setKey_schedule (s : State) (k : Key) (b : Bool) : (s.setKey k b).schedule = s.schedule := rfl
@[simp] theorem State.setKey_outputs (s : State) (k : Key) (b : Bool) : (s.setKey k b).outputs = s.outputs := rfl

@[simp] theorem State.clearRedraw_memory (s : State) : (s.clearRedraw).memory = s.memory := rfl
@[simp] theorem State.clearRedraw_v (s : State) : (s.clearRedraw).v = s.v := rfl
@[simp] theorem State.clearRedraw_i (s : State) : (s.clearRedraw).i = s.i := rfl
@[simp] theorem State.clearRedraw_pc (s : State) : (s.clearRedraw).pc = s.pc := rfl
@[simp] theorem State.clearRedraw_stack (s : State) : (s.clearRedraw).stack = s.stack := rfl
@[simp] theorem State.clearRedraw_sp (s : State) : (s.clearRedraw).sp = s.sp := rfl
@[simp] theorem State.clearRedraw_dt (s : State) : (s.clearRedraw).dt = s.dt := rfl
@[simp] theorem State.clearRedraw_st (s : State) : (s.clearRedraw).st = s.st := rfl
@[simp] theorem State.clearRedraw_keypad (s : State) : (s.clearRedraw).keypad = s.keypad := rfl
@[simp] theorem State.clearRedraw_display (s : State) : (s.clearRedraw).display = s.display := rfl
@[simp] theorem State.clearRedraw_redrawPending (s : State) : (s.clearRedraw).redrawPending = false := rfl
@[simp] theorem State.clearRedraw_buzzerRequested (s : State) : (s.clearRedraw).buzzerRequested = s.buzzerRequested := rfl
@[simp] theorem State.clearRedraw_fault (s : State) : (s.clearRedraw).fault = s.fault := rfl
@[simp] theorem State.clearRedraw_draws (s : State) : (s.clearRedraw).draws = s.draws := rfl
@[simp] theorem State.clearRedraw_schedule (s : State) : (s.clearRedraw).schedule = s.schedule := rfl
@[simp] theorem State.clearRedraw_outputs (s : State) : (s.clearRedraw).outputs = s.outputs := rfl

@[simp] theorem State.clearBuzzer_memory (s : State) : (s.clearBuzzer).memory = s.memory := rfl
@[simp] theorem State.clearBuzzer_v (s : State) : (s.clearBuzzer).v = s.v := rfl
@[simp] theorem State.clearBuzzer_i (s : State) : (s.clearBuzzer).i = s.i := rfl
@[simp] theorem State.clearBuzzer_pc (s : State) : (s.clearBuzzer).pc = s.pc := rfl
@[simp] theorem State.clearBuzzer_stack (s : State) : (s.clearBuzzer).stack = s.stack := rfl
@[simp] theorem State.clearBuzzer_sp (s : State) : (s.clearBuzzer).sp = s.sp := rfl
@[simp] theorem State.clearBuzzer_dt (s : State) : (s.clearBuzzer).dt = s.dt := rfl
@[simp] theorem State.clearBuzzer_st (s : State) : (s.clearBuzzer).st = s.st := rfl
@[simp] theorem State.clearBuzzer_keypad (s : State) : (s.clearBuzzer).keypad = s.keypad := rfl
@[simp] theorem State.clearBuzzer_display (s : State) : (s.clearBuzzer).display = s.display := rfl
@[simp] theorem State.clearBuzzer_redrawPending (s : State) : (s.clearBuzzer).redrawPending = s.redrawPending := rfl
@[simp] theorem State.clearBuzzer_buzzerRequested (s : State) : (s.clearBuzzer).buzzerRequested = false := rfl
@[simp] theorem State.clearBuzzer_fault (s : State) : (s.clearBuzzer).fault = s.fault := rfl
@[simp] theorem State.clearBuzzer_draws (s : State) : (s.clearBuzzer).draws = s.draws := rfl
@[simp] theorem State.clearBuzzer_schedule (s : State) : (s.clearBuzzer).schedule = s.schedule := rfl
@[simp] theorem State.clearBuzzer_outputs (s : State) : (s.clearBuzzer).outputs = s.outputs := rfl

@[simp] theorem State.dropOp_memory (s : State) : (s.dropOp).memory = s.memory := rfl
@[simp] theorem State.dropOp_v (s : State) : (s.dropOp).v = s.v := rfl
@[simp] theorem State.dropOp_i (s : State) : (s.dropOp).i = s.i := rfl
@[simp] theorem State.dropOp_pc (s : State) : (s.dropOp).pc = s.pc := rfl
@[simp] theorem State.dropOp_stack (s : State) : (s.dropOp).stack = s.stack := rfl
@[simp] theorem State.dropOp_sp (s : State) : (s.dropOp).sp = s.sp := rfl
@[simp] theorem State.dropOp_dt (s : State) : (s.dropOp).dt = s.dt := rfl
@[simp] theorem State.dropOp_st (s : State) : (s.dropOp).st = s.st := rfl
@[simp] theorem State.dropOp_keypad (s : State) : (s.dropOp).keypad = s.keypad := rfl
@[simp] theorem State.dropOp_display (s : State) : (s.dropOp).display = s.display := rfl
@[simp] theorem State.dropOp_redrawPending (s : State) : (s.dropOp).redrawPending = s.redrawPending := rfl
@[simp] theorem State.dropOp_buzzerRequested (s : State) : (s.dropOp).buzzerRequested = s.buzzerRequested := rfl
@[simp] theorem State.dropOp_fault (s : State) : (s.dropOp).fault = s.fault := rfl
@[simp] theorem State.dropOp_draws (s : State) : (s.dropOp).draws = s.draws := rfl
@[simp] theorem State.dropOp_schedule (s : State) : (s.dropOp).schedule = s.schedule.tail := rfl
@[simp] theorem State.dropOp_outputs (s : State) : (s.dropOp).outputs = s.outputs := rfl

@[simp] theorem State.initializeState_memory (s : State) : s.initializeState.memory = State.reset.memory := rfl
@[simp] theorem State.initializeState_v (s : State) : s.initializeState.v = State.reset.v := rfl
@[simp] theorem State.initializeState_i (s : State) : s.initializeState.i = State.reset.i := rfl
@[simp] theorem State.initializeState_pc (s : State) : s.initializeState.pc = State.reset.pc := rfl
@[simp] theorem State.initializeState_stack (s : State) : s.initializeState.stack = State.reset.stack := rfl
@[simp] theorem State.initializeState_sp (s : State) : s.initializeState.sp = State.reset.sp := rfl
@[simp] theorem State.initializeState_dt (s : State) : s.initializeState.dt = State.reset.dt := rfl
@[simp] theorem State.initializeState_st (s : State) : s.initializeState.st = State.reset.st := rfl
@[simp] theorem State.initializeState_keypad (s : State) : s.initializeState.keypad = State.reset.keypad := rfl
@[simp] theorem State.initializeState_display (s : State) : s.initializeState.display = State.reset.display := rfl
@[simp] theorem State.initializeState_redrawPending (s : State) : s.initializeState.redrawPending = State.reset.redrawPending := rfl
@[simp] theorem State.initializeState_buzzerRequested (s : State) : s.initializeState.buzzerRequested = State.reset.buzzerRequested := rfl
@[simp] theorem State.initializeState_fault (s : State) : s.initializeState.fault = State.reset.fault := rfl
@[simp] theorem State.initializeState_draws (s : State) : s.initializeState.draws = s.draws := rfl
@[simp] theorem State.initializeState_schedule (s : State) : s.initializeState.schedule = s.schedule := rfl
@[simp] theorem State.initializeState_outputs (s : State) : s.initializeState.outputs = s.outputs := rfl

/-! The register accessor. -/

@[simp] theorem State.writeMem_reg (s : State) (a : Addr) (b : Byte) (q : Reg) : (s.writeMem a b).reg q = s.reg q := rfl
@[simp] theorem State.setI_reg (s : State) (w : Word) (q : Reg) : (s.setI w).reg q = s.reg q := rfl
@[simp] theorem State.setPc_reg (s : State) (w : Word) (q : Reg) : (s.setPc w).reg q = s.reg q := rfl
@[simp] theorem State.advancePc_reg (s : State) (q : Reg) : (s.advancePc).reg q = s.reg q := rfl
@[simp] theorem State.retreatPc_reg (s : State) (q : Reg) : (s.retreatPc).reg q = s.reg q := rfl
@[simp] theorem State.setDt_reg (s : State) (b : Byte) (q : Reg) : (s.setDt b).reg q = s.reg q := rfl
@[simp] theorem State.setSt_reg (s : State) (b : Byte) (q : Reg) : (s.setSt b).reg q = s.reg q := rfl
@[simp] theorem State.raise_reg (s : State) (c : FaultCause) (q : Reg) : (s.raise c).reg q = s.reg q := rfl
@[simp] theorem State.emit_reg (s : State) (o : Output) (q : Reg) : (s.emit o).reg q = s.reg q := rfl
@[simp] theorem State.consumeDraw_reg (s : State) (q : Reg) : (s.consumeDraw).reg q = s.reg q := rfl
@[simp] theorem State.showDisplay_reg (s : State) (d : Display) (q : Reg) : (s.showDisplay d).reg q = s.reg q := rfl
@[simp] theorem State.setKey_reg (s : State) (k : Key) (b : Bool) (q : Reg) : (s.setKey k b).reg q = s.reg q := rfl
@[simp] theorem State.clearRedraw_reg (s : State) (q : Reg) : (s.clearRedraw).reg q = s.reg q := rfl
@[simp] theorem State.clearBuzzer_reg (s : State) (q : Reg) : (s.clearBuzzer).reg q = s.reg q := rfl
@[simp] theorem State.dropOp_reg (s : State) (q : Reg) : (s.dropOp).reg q = s.reg q := rfl

/-- A register write is read back. -/
@[simp] theorem State.setReg_reg_self (s : State) (r : Reg) (b : Byte) : (s.setReg r b).reg r = b := by
  simp [State.setReg, State.reg]

/-- A register write leaves every other register alone. -/
@[simp] theorem State.setReg_reg_of_ne (s : State) {q r : Reg} (b : Byte) (h : q ≠ r) :
    (s.setReg r b).reg q = s.reg q := by
  have : r.val ≠ q.val := fun e => h (Fin.ext e.symm)
  simp [State.setReg, State.reg, Vector.getElem_set_ne _ _ this]

/-- Both cases of a register read after a write. -/
theorem State.setReg_reg (s : State) (q r : Reg) (b : Byte) :
    (s.setReg r b).reg q = if q = r then b else s.reg q := by
  split
  · next h => subst h; exact s.setReg_reg_self q b
  · next h => exact s.setReg_reg_of_ne b h

/-- A register write changes no field but `v`. -/
theorem State.setReg_only_v (s : State) (r : Reg) (b : Byte) :
    s.setReg r b = { s with v := (s.setReg r b).v } := rfl

/-- Two states that agree on every register agree on `v`. -/
theorem State.v_eq_of_reg_eq {s t : State} (h : ∀ r, s.reg r = t.reg r) : s.v = t.v := by
  apply Vector.ext
  intro k hk
  exact h ⟨k, hk⟩

/-- The keypad accessor after `SetKey`. -/
theorem State.setKey_keyDown (s : State) (k j : Key) (b : Bool) :
    (s.setKey k b).keyDown j = if j = k then b else s.keyDown j := by
  split
  · next h => subst h; simp [State.keyDown]
  · next h =>
    have : k.val ≠ j.val := fun e => h (Fin.ext e.symm)
    simp [State.keyDown, Vector.getElem_set_ne _ _ this]

end Sys2Proof.Machine
end

