-- ==== Sys2Proof/Laws/Ops.lean ====
section
/-! SUPPORT. One lemma per shared operation of Machine/Ops.lean, Operands.lean and Agents.lean that says what it can do;
proofs cite these and do not unfold the operation. -/

namespace Sys2Proof.Machine

/-! Skips (R140 (a)). -/

theorem State.skipIf_cases (s : State) (c : Bool) :
    (c = true ∧ s.skipIf c = { s with pc := s.pc + 2 }) ∨ (c = false ∧ s.skipIf c = s) := by
  cases c
  · exact .inr ⟨rfl, rfl⟩
  · exact .inl ⟨rfl, rfl⟩

theorem State.skipIf_only_pc (s : State) (c : Bool) : s.skipIf c = { s with pc := (s.skipIf c).pc } := by
  cases c <;> rfl

theorem State.skipIf_pc (s : State) (c : Bool) : (s.skipIf c).pc = if c then s.pc + 2 else s.pc := by
  cases c <;> rfl

/-! The stack (R142, R144, R250, R251). -/

theorem State.pushPcThen_cases (s : State) (f : State → State) :
    (∃ h : s.sp.val < 16, s.pushPcThen f =
        f { s with stack := s.stack.set s.sp.val s.pc, sp := ⟨s.sp.val + 1, by omega⟩ }) ∨
      (s.sp.val = 16 ∧ s.pushPcThen f = s.raise .stackOverflow) := by
  by_cases h : s.sp.val < 16
  · exact .inl ⟨h, by simp [State.pushPcThen, h]⟩
  · exact .inr ⟨by have := s.sp.isLt; omega, by simp [State.pushPcThen, h]⟩

theorem State.popPc_cases (s : State) :
    (∃ h : 0 < s.sp.val, s.popPc =
        { s with sp := ⟨s.sp.val - 1, by omega⟩, pc := s.stack[s.sp.val - 1] }) ∨
      (s.sp.val = 0 ∧ s.popPc = s.raise .stackUnderflow) := by
  by_cases h : 0 < s.sp.val
  · exact .inl ⟨h, by simp [State.popPc, h]⟩
  · exact .inr ⟨by omega, by simp [State.popPc, h]⟩

/-! Flag, then result (R160, R172). -/

theorem State.setFlagThenResult_only_v (s : State) (flag : Byte) (x : Reg) (result : Byte) :
    s.setFlagThenResult flag x result = { s with v := (s.setFlagThenResult flag x result).v } := rfl

theorem State.setFlagThenResult_reg (s : State) (flag : Byte) (x : Reg) (result : Byte) (q : Reg) :
    (s.setFlagThenResult flag x result).reg q =
      if q = x then result else if q = regF then flag else s.reg q := by
  simp only [State.setFlagThenResult, State.setReg_reg]

/-! Addresses (R61). -/

theorem ea_toNat (w : Word) : (ea w).toNat = w.toNat % 4096 := by
  simp [ea, BitVec.toNat_setWidth]

theorem State.indexed_toNat (s : State) (k : Nat) : (s.indexed k).toNat = (s.i.toNat + k) % 4096 := by
  simp only [State.indexed, ea_toNat, BitVec.toNat_add, BitVec.toNat_ofNat]
  omega

/-- Two indexes less than 4096 apart name different bytes (R70). -/
theorem State.indexed_ne (s : State) {j k : Nat} (h : j < k) (hk : k < j + 4096) : s.indexed j ≠ s.indexed k := by
  intro e
  have := congrArg BitVec.toNat e
  simp only [State.indexed_toNat] at this
  omega

@[simp] theorem State.writeMem_indexed (s : State) (a : Addr) (b : Byte) (k : Nat) :
    (s.writeMem a b).indexed k = s.indexed k := rfl

@[simp] theorem State.setReg_indexed (s : State) (r : Reg) (b : Byte) (k : Nat) :
    (s.setReg r b).indexed k = s.indexed k := rfl

@[simp] theorem State.setReg_readMem (s : State) (r : Reg) (b : Byte) (a : Addr) :
    (s.setReg r b).readMem a = s.readMem a := rfl

theorem State.writeMem_readMem_self {s : State} (h : s.memory.wf) (a : Addr) (b : Byte) :
    (s.writeMem a b).readMem a = b := Memory.read_write_self h a b

theorem State.writeMem_readMem_of_ne {s : State} (h : s.memory.wf) {a c : Addr} (b : Byte) (hc : c ≠ a) :
    (s.writeMem a b).readMem c = s.readMem c := Memory.read_write_of_ne h b hc

/-! Stores of several bytes (R64, R190). -/

theorem State.storeFrom_only_memory : ∀ (bs : List Byte) (s : State) (k : Nat),
    s.storeFrom k bs = { s with memory := (s.storeFrom k bs).memory }
  | [], _, _ => rfl
  | b :: bs, s, k => by
    have ih := storeFrom_only_memory bs (s.writeMem (s.indexed k) b) (k + 1)
    simp only [State.storeFrom]
    exact ih

theorem State.storeFrom_wf : ∀ (bs : List Byte) {s : State} (k : Nat), s.memory.wf → (s.storeFrom k bs).memory.wf
  | [], _, _, h => h
  | b :: bs, s, k, h => storeFrom_wf bs (s := s.writeMem (s.indexed k) b) (k + 1) (Memory.write_wf h _ _)

theorem State.storeFrom_readMem_of_ne : ∀ (bs : List Byte) {s : State} (k : Nat) {a : Addr}, s.memory.wf →
    (∀ j, j < bs.length → a ≠ s.indexed (k + j)) → (s.storeFrom k bs).readMem a = s.readMem a
  | [], _, _, _, _, _ => rfl
  | b :: bs, s, k, a, h, ha => by
    have h0 : a ≠ s.indexed k := ha 0 (by simp)
    have ih := storeFrom_readMem_of_ne bs (s := s.writeMem (s.indexed k) b) (k + 1) (a := a)
      (Memory.write_wf h _ _) (fun j hj => by
        have := ha (j + 1) (by simpa using hj)
        simpa [Nat.add_assoc, Nat.add_comm 1 j] using this)
    rw [State.storeFrom, ih, State.writeMem_readMem_of_ne h b h0]

theorem State.storeFrom_readMem : ∀ (bs : List Byte) {s : State} (k j : Nat) (hj : j < bs.length), s.memory.wf →
    bs.length ≤ 4096 → (s.storeFrom k bs).readMem (s.indexed (k + j)) = bs[j]
  | [], _, _, _, hj, _, _ => by simp at hj
  | b :: bs, s, k, 0, _, h, hl => by
    have hb : bs.length + 1 ≤ 4096 := by simpa using hl
    rw [State.storeFrom, State.storeFrom_readMem_of_ne bs (k + 1) (Memory.write_wf h _ _) (fun j hj => by
      have := s.indexed_ne (j := k) (k := k + 1 + j) (by omega) (by omega)
      simpa using this)]
    simpa using State.writeMem_readMem_self h (s.indexed k) b
  | b :: bs, s, k, j + 1, hj, h, hl => by
    have ih := storeFrom_readMem bs (s := s.writeMem (s.indexed k) b) (k + 1) j (by simpa using hj)
      (Memory.write_wf h _ _) (by have : bs.length + 1 ≤ 4096 := by simpa using hl
                                  omega)
    have e : k + 1 + j = k + (j + 1) := by omega
    simpa [State.storeFrom, e] using ih

/-! Loads of several registers (R196). -/

theorem State.loadRegs_only_v : ∀ (rs : List Reg) (s : State), s.loadRegs rs = { s with v := (s.loadRegs rs).v }
  | [], _ => rfl
  | r :: rs, s => by
    have ih := loadRegs_only_v rs (s.setReg r (s.readMem (s.indexed r.val)))
    simp only [State.loadRegs]
    exact ih

theorem State.loadRegs_reg : ∀ (rs : List Reg) (s : State) (q : Reg),
    (s.loadRegs rs).reg q = if q ∈ rs then s.readMem (s.indexed q.val) else s.reg q
  | [], _, _ => by simp [State.loadRegs]
  | r :: rs, s, q => by
    rw [State.loadRegs, loadRegs_reg rs]
    simp only [State.setReg_readMem, State.setReg_indexed, List.mem_cons, State.setReg_reg]
    by_cases hq : q ∈ rs
    · simp [hq]
    · by_cases hr : q = r
      · simp [hr]
      · simp [hq, hr]

theorem mem_regsTo (x r : Reg) : r ∈ regsTo x ↔ r.val ≤ x.val := by
  simp [regsTo]

theorem regsTo_map_length (x : Reg) (f : Reg → Byte) : ((regsTo x).map f).length = x.val + 1 := by
  rw [List.length_map]
  revert x
  decide

theorem regsTo_getElem (x : Reg) (k : Nat) (h : k < (regsTo x).length) (hk : k < 16) : (regsTo x)[k] = ⟨k, hk⟩ := by
  have : ∀ (x : Reg) (k : Fin 16) (h : k.val < (regsTo x).length), (regsTo x)[k.val] = k := by decide
  exact this x ⟨k, hk⟩ h

/-! Display cells (R210, R212). -/

theorem displayCell_flipCell (d : Display) (x cx : Fin 64) (y cy : Fin 32) :
    displayCell (flipCell d x y) cx cy =
      if cx = x ∧ cy = y then !displayCell d cx cy else displayCell d cx cy := by
  unfold displayCell flipCell
  by_cases hy : cy = y
  · subst hy
    by_cases hx : cx = x
    · subst hx
      simp
    · have : x.val ≠ cx.val := fun e => hx (Fin.ext e.symm)
      simp [hx, Vector.getElem_set_ne _ _ this]
  · have : y.val ≠ cy.val := fun e => hy (Fin.ext e.symm)
    simp [hy, Vector.getElem_set_ne _ _ this]

/-- Two displays with the same cells are equal. -/
theorem display_ext {d e : Display} (h : ∀ x y, displayCell d x y = displayCell e x y) : d = e := by
  apply Vector.ext
  intro j hj
  apply Vector.ext
  intro k hk
  exact h ⟨k, hk⟩ ⟨j, hj⟩

theorem displayCell_blank (x : Fin 64) (y : Fin 32) : displayCell blankDisplay x y = false := by
  simp [displayCell, blankDisplay]

/-! The keys that are down (R233). -/

theorem State.mem_keysDown (s : State) (k : Key) : k ∈ s.keysDown ↔ s.keyDown k = true := by
  simp [State.keysDown]

/-- Whatever the policy and the free choice, the key selected is one of those down (R233 (e)). -/
theorem selectKey_mem (policy : KeySelect) (n : Nat) (k : Key) (ks : List Key) :
    selectKey policy n k ks ∈ k :: ks := by
  cases policy
  · simp [selectKey]
  · exact List.getLast_mem _
  · exact List.getElem_mem _

/-! The two halves of a tick (R263, R264). -/

theorem State.tickDelay_only_dt (s : State) : s.tickDelay = { s with dt := s.tickDelay.dt } := by
  unfold State.tickDelay
  split <;> rfl

theorem State.tickDelay_dt (s : State) : s.tickDelay.dt.toNat = s.dt.toNat - 1 := by
  unfold State.tickDelay
  split
  · next h => simp [h]
  · next h =>
    have : s.dt.toNat ≠ 0 := fun e => h (BitVec.eq_of_toNat_eq (by simpa using e))
    have := s.dt.isLt
    show (s.dt - 1#8).toNat = s.dt.toNat - 1
    rw [BitVec.toNat_sub]
    simp only [BitVec.toNat_ofNat]
    omega

theorem State.tickSound_only_sound (s : State) :
    s.tickSound = { s with st := s.tickSound.st, buzzerRequested := s.tickSound.buzzerRequested } := by
  unfold State.tickSound
  split <;> rfl

theorem State.tickSound_st (s : State) : s.tickSound.st.toNat = s.st.toNat - 1 := by
  unfold State.tickSound
  split
  · next h => simp [h]
  · next h =>
    have : s.st.toNat ≠ 0 := fun e => h (BitVec.eq_of_toNat_eq (by simpa using e))
    have := s.st.isLt
    show (s.st - 1#8).toNat = s.st.toNat - 1
    rw [BitVec.toNat_sub]
    simp only [BitVec.toNat_ofNat]
    omega

theorem State.tickSound_buzzer (s : State) :
    s.tickSound.buzzerRequested = (s.buzzerRequested || s.st == 1) := by
  unfold State.tickSound
  split
  · next h => simp [h]
  · rfl

end Sys2Proof.Machine
end

