-- ==== Sys2Proof/Laws/Cycle.lean ====
section
/-! SUPPORT. What a cycle and a step can do, said once. -/

namespace Sys2Proof.Machine

/-- The three things a cycle can be: nothing while halted, the decoded instruction, or the report of an unknown opcode
(R120). -/
theorem cycle_cases (s : State) :
    (∃ c, s.fault = some c ∧ cycle s = .next s) ∨
    (∃ i, s.fault = none ∧ decode s.fetch = .ok i ∧ cycle s = exec i s.advancePc) ∨
    (∃ e, s.fault = none ∧ decode s.fetch = .error e ∧
      cycle s = .next (s.advancePc.emit (.unknownOpcode s.fetch s.pc))) := by
  cases hf : s.fault with
  | some c => exact .inl ⟨c, rfl, by simp [cycle, hf]⟩
  | none =>
    cases hd : decode s.fetch with
    | ok i => exact .inr (.inl ⟨i, rfl, rfl, by simp [cycle, hf, hd]⟩)
    | error e => exact .inr (.inr ⟨e, rfl, rfl, by simp [cycle, hf, hd]⟩)

/-- A halted cycle changes nothing (R120). -/
theorem cycle_of_halted {s : State} {c : FaultCause} (h : s.fault = some c) : cycle s = .next s := by
  simp [cycle, h]

/-- FX0A: wait, or store the index of a key that is down (R233). -/
theorem execLdVxK_cases (x : Reg) (s : State) :
    (s.keysDown = [] ∧ execLdVxK x s = .next s.retreatPc) ∨
    (∃ k n, k ∈ s.keysDown ∧
      execLdVxK x s = .next { s.setReg x (keyByte k) with draws := n }) := by
  unfold execLdVxK
  split
  · next h => exact .inl ⟨h, rfl⟩
  · next k h => exact .inr ⟨k, s.draws, by simp [h], rfl⟩
  · next k ks _ h =>
    exact .inr ⟨selectKey Config.keySelect s.draws k ks, s.draws + 1, by rw [h]; exact selectKey_mem _ _ _ _, rfl⟩

/-! What each operation of an agent does (R5, R268). -/

@[simp] theorem performUnder_cycle (c : TimerCoupling) (s : State) : performUnder c .cycle s = cycleUnder c s := rfl

@[simp] theorem cycleUnder_decoupled (s : State) : cycleUnder .decoupled s = cycle s := rfl

@[simp] theorem State.tickUnder_decoupled (s : State) : s.tickUnder .decoupled = s.timerTick := rfl

@[simp] theorem State.tickUnder_perCycle (s : State) : s.tickUnder .perCycle = s := rfl

@[simp] theorem performUnder_decoupled_timerTick (s : State) :
    performUnder .decoupled .timerTick s = .next s.timerTick := rfl

@[simp] theorem performUnder_perCycle_timerTick (s : State) : performUnder .perCycle .timerTick s = .next s := rfl

@[simp] theorem perform_cycle (s : State) : perform .cycle s = cycle s := rfl

@[simp] theorem perform_timerTick (s : State) : perform .timerTick s = .next s.timerTick := rfl

@[simp] theorem perform_initializeState (s : State) : perform .initializeState s = .next s.initializeState := rfl

@[simp] theorem perform_loadProgram (bytes : List Byte) (s : State) : perform (.loadProgram bytes) s =
    .next ((s.loadProgram bytes).2.emit (.loadResult (s.loadProgram bytes).1)) := rfl

@[simp] theorem perform_setKey (k : Key) (down : Bool) (s : State) :
    perform (.setKey k down) s = .next (s.setKey k down) := rfl

@[simp] theorem perform_clearRedraw (s : State) : perform .clearRedraw s = .next s.clearRedraw := rfl

@[simp] theorem perform_clearBuzzer (s : State) : perform .clearBuzzer s = .next s.clearBuzzer := rfl

/-- The setting of `TIMER_COUPLING` bears on cycles and ticks only. -/
theorem performUnder_eq_perform (c : TimerCoupling) {op : AgentOp} (s : State) (hc : op ≠ .cycle)
    (ht : op ≠ .timerTick) : performUnder c op s = perform op s := by
  cases op <;> first | rfl | contradiction

/-- A step performs the next operation (R5; log 1). -/
theorem step_eq_perform (s : State) : step s = perform s.nextOp s.dropOp := rfl

/-- A step is the operation at the head of the schedule. -/
theorem step_of_schedule {s : State} {op : AgentOp} {ops : List AgentOp} (h : s.schedule = op :: ops) :
    step s = perform op { s with schedule := ops } := by
  simp [step_eq_perform, State.nextOp, State.dropOp, h]

/-- A step is a cycle when nothing is scheduled. -/
theorem step_of_empty_schedule {s : State} (h : s.schedule = []) : step s = cycle s := by
  have e : s.dropOp = s := by
    cases s
    simp_all [State.dropOp]
  simp [step_eq_perform, State.nextOp, h, e]

/-- A cycle under `per_cycle` is a cycle, then one tick unless the machine is halted (R127, R265). -/
theorem cycleUnder_perCycle {s t : State} (h : cycle s = .next t) :
    cycleUnder .perCycle s = .next t.tickUnlessHalted := by
  simp [cycleUnder, h]

/-- A word placed at `PC` is what the next fetch reads, for every `PC` (R63, R68). -/
theorem placeWord_fetch (s : State) (w : Word) (h : s.memory.wf) : (s.placeWord w).fetch = w := by
  have hne : ea s.pc ≠ ea (s.pc + 1) := by
    intro e
    have := congrArg BitVec.toNat e
    simp [ea] at this
    omega
  have hi : ((s.placeWord w).readMem (ea s.pc)) = highByte w := by
    show ((s.memory.write _ _).write _ _).read _ = _
    rw [Memory.read_write_of_ne (Memory.write_wf h _ _) _ hne, Memory.read_write_self h]
  have lo : ((s.placeWord w).readMem (ea (s.pc + 1))) = lowByte w :=
    Memory.read_write_self (Memory.write_wf h _ _) _ _
  have hpc : (s.placeWord w).pc = s.pc := rfl
  rw [State.fetch, hpc, hi, lo, Sys2Proof.opcodeOf_bytes]

end Sys2Proof.Machine
end

