-- ==== Sys2Proof/Laws/PerInstr.lean ====
section
/-! SUPPORT. Statements made once per instruction: family TableRow, the fixed bits of the table's row. -/

namespace Sys2Proof.Laws.TableRow

/-- The `mask` of the instruction's row (spec/30_encoding.md R94). -/
def mask : Instr → Word
  | .cls | .ret => 0xFFFF#16
  | .sys _ | .jp _ | .call _ | .ldINnn _ | .jpV0 _ => 0xF000#16
  | .seVxNn _ _ | .sneVxNn _ _ | .ldVxNn _ _ | .addVxNn _ _ | .rnd _ _ | .drw _ _ _ => 0xF000#16
  | .seVxVy _ _ | .sneVxVy _ _ | .ldVxVy _ _ | .orVxVy _ _ | .andVxVy _ _ | .xorVxVy _ _ => 0xF00F#16
  | .addVxVy _ _ | .sub _ _ | .shr _ _ | .subn _ _ | .shl _ _ => 0xF00F#16
  | .skp _ | .sknp _ | .ldVxDt _ | .ldVxK _ | .ldDtVx _ | .ldStVx _ => 0xF0FF#16
  | .addIVx _ | .ldFVx _ | .ldBVx _ | .stV0Vx _ | .ldV0Vx _ => 0xF0FF#16

/-- The `match` of the instruction's row (spec/30_encoding.md R94). -/
def pattern : Instr → Word
  | .cls => 0x00E0#16
  | .ret => 0x00EE#16
  | .sys _ => 0x0000#16
  | .jp _ => 0x1000#16
  | .call _ => 0x2000#16
  | .seVxNn _ _ => 0x3000#16
  | .sneVxNn _ _ => 0x4000#16
  | .seVxVy _ _ => 0x5000#16
  | .ldVxNn _ _ => 0x6000#16
  | .addVxNn _ _ => 0x7000#16
  | .ldVxVy _ _ => 0x8000#16
  | .orVxVy _ _ => 0x8001#16
  | .andVxVy _ _ => 0x8002#16
  | .xorVxVy _ _ => 0x8003#16
  | .addVxVy _ _ => 0x8004#16
  | .sub _ _ => 0x8005#16
  | .shr _ _ => 0x8006#16
  | .subn _ _ => 0x8007#16
  | .shl _ _ => 0x800E#16
  | .sneVxVy _ _ => 0x9000#16
  | .ldINnn _ => 0xA000#16
  | .jpV0 _ => 0xB000#16
  | .rnd _ _ => 0xC000#16
  | .drw _ _ _ => 0xD000#16
  | .skp _ => 0xE09E#16
  | .sknp _ => 0xE0A1#16
  | .ldVxDt _ => 0xF007#16
  | .ldVxK _ => 0xF00A#16
  | .ldDtVx _ => 0xF015#16
  | .ldStVx _ => 0xF018#16
  | .addIVx _ => 0xF01E#16
  | .ldFVx _ => 0xF029#16
  | .ldBVx _ => 0xF033#16
  | .stV0Vx _ => 0xF055#16
  | .ldV0Vx _ => 0xF065#16

/-- The word of an instruction has the fixed bits of its row: `op & mask = match` (R94). -/
def Statement (i : Instr) : Prop := encode i &&& mask i = pattern i

/-- A mask acts on the two parts of a word by themselves. -/
theorem append_and_append {n m : Nat} (a c : BitVec n) (b d : BitVec m) :
    (a ++ b) &&& (c ++ d) = (a &&& c) ++ (b &&& d) := by
  ext k hk
  simp only [BitVec.getElem_and, BitVec.getElem_append]
  split <;> simp

theorem keep_all (f : BitVec 4) : f &&& 0xF#4 = f := by revert f; decide

/-- Mask 0xF000 on format NNN keeps the family. -/
theorem nnn_masked (f : BitVec 4) (nnn : Addr) : encodeNNN f nnn &&& 0xF000#16 = f ++ 0x000#12 := by
  have e : (0xF000#16 : Word) = 0xF#4 ++ 0x000#12 := by decide
  rw [e, encodeNNN, append_and_append, keep_all]
  simp

/-- Mask 0xF000 on format XNN keeps the family. -/
theorem xnn_masked (f : BitVec 4) (x : Reg) (nn : Byte) : encodeXNN f x nn &&& 0xF000#16 = f ++ 0x000#12 := by
  rw [← nnn_masked f (regField x ++ nn)]
  rfl

/-- Mask 0xF000 on format XYN keeps the family. -/
theorem xyn_masked (f : BitVec 4) (x y : Reg) (n : BitVec 4) :
    encodeXYN f x y n &&& 0xF000#16 = f ++ 0x000#12 := by
  rw [← nnn_masked f (regField x ++ (regField y ++ n))]
  rfl

/-- Mask 0xF00F on format XYN keeps the family and the low nibble. -/
theorem xy_masked (f : BitVec 4) (x y : Reg) (n : BitVec 4) :
    encodeXYN f x y n &&& 0xF00F#16 = f ++ (0x0#4 ++ (0x0#4 ++ n)) := by
  have e : (0xF00F#16 : Word) = 0xF#4 ++ (0x0#4 ++ (0x0#4 ++ 0xF#4)) := by decide
  rw [e, encodeXYN, append_and_append, append_and_append, append_and_append, keep_all, keep_all]
  simp

/-- Mask 0xF0FF on format XFN keeps the family and the low byte. -/
theorem xf_masked (f : BitVec 4) (x : Reg) (nn : Byte) :
    encodeXNN f x nn &&& 0xF0FF#16 = f ++ (0x0#4 ++ nn) := by
  have e : (0xF0FF#16 : Word) = 0xF#4 ++ (0x0#4 ++ 0xFF#8) := by decide
  have h : nn &&& 0xFF#8 = nn := by revert nn; decide
  rw [e, encodeXNN, append_and_append, append_and_append, keep_all, h]
  simp

theorem cls : Statement .cls := by unfold Statement; decide
theorem ret : Statement .ret := by unfold Statement; decide
theorem sys (nnn : Addr) : Statement (.sys nnn) := nnn_masked _ nnn
theorem jp (nnn : Addr) : Statement (.jp nnn) := nnn_masked _ nnn
theorem call (nnn : Addr) : Statement (.call nnn) := nnn_masked _ nnn
theorem ldINnn (nnn : Addr) : Statement (.ldINnn nnn) := nnn_masked _ nnn
theorem jpV0 (nnn : Addr) : Statement (.jpV0 nnn) := nnn_masked _ nnn
theorem seVxNn (x : Reg) (nn : Byte) : Statement (.seVxNn x nn) := xnn_masked _ x nn
theorem sneVxNn (x : Reg) (nn : Byte) : Statement (.sneVxNn x nn) := xnn_masked _ x nn
theorem ldVxNn (x : Reg) (nn : Byte) : Statement (.ldVxNn x nn) := xnn_masked _ x nn
theorem addVxNn (x : Reg) (nn : Byte) : Statement (.addVxNn x nn) := xnn_masked _ x nn
theorem rnd (x : Reg) (nn : Byte) : Statement (.rnd x nn) := xnn_masked _ x nn
theorem seVxVy (x y : Reg) : Statement (.seVxVy x y) := xy_masked _ x y _
theorem ldVxVy (x y : Reg) : Statement (.ldVxVy x y) := xy_masked _ x y _
theorem orVxVy (x y : Reg) : Statement (.orVxVy x y) := xy_masked _ x y _
theorem andVxVy (x y : Reg) : Statement (.andVxVy x y) := xy_masked _ x y _
theorem xorVxVy (x y : Reg) : Statement (.xorVxVy x y) := xy_masked _ x y _
theorem addVxVy (x y : Reg) : Statement (.addVxVy x y) := xy_masked _ x y _
theorem sub (x y : Reg) : Statement (.sub x y) := xy_masked _ x y _
theorem shr (x y : Reg) : Statement (.shr x y) := xy_masked _ x y _
theorem subn (x y : Reg) : Statement (.subn x y) := xy_masked _ x y _
theorem shl (x y : Reg) : Statement (.shl x y) := xy_masked _ x y _
theorem sneVxVy (x y : Reg) : Statement (.sneVxVy x y) := xy_masked _ x y _
theorem drw (x y : Reg) (n : BitVec 4) : Statement (.drw x y n) := xyn_masked _ x y n
theorem skp (x : Reg) : Statement (.skp x) := xf_masked _ x _
theorem sknp (x : Reg) : Statement (.sknp x) := xf_masked _ x _
theorem ldVxDt (x : Reg) : Statement (.ldVxDt x) := xf_masked _ x _
theorem ldVxK (x : Reg) : Statement (.ldVxK x) := xf_masked _ x _
theorem ldDtVx (x : Reg) : Statement (.ldDtVx x) := xf_masked _ x _
theorem ldStVx (x : Reg) : Statement (.ldStVx x) := xf_masked _ x _
theorem addIVx (x : Reg) : Statement (.addIVx x) := xf_masked _ x _
theorem ldFVx (x : Reg) : Statement (.ldFVx x) := xf_masked _ x _
theorem ldBVx (x : Reg) : Statement (.ldBVx x) := xf_masked _ x _
theorem stV0Vx (x : Reg) : Statement (.stV0Vx x) := xf_masked _ x _
theorem ldV0Vx (x : Reg) : Statement (.ldV0Vx x) := xf_masked _ x _

end Sys2Proof.Laws.TableRow
end

