-- ==== Sys2Proof/Laws/Safety.lean ====
section
/-! SUPPORT. Runs of several operations, one operation at a time, and the elements of a launch state. -/

namespace Sys2Proof.Machine

@[simp] theorem performAllUnder_nil (c : TimerCoupling) (s : State) : performAllUnder c [] s = .next s := rfl

/-- The first operation of a run, when it answers a next state, and then the rest. -/
theorem performAllUnder_cons {c : TimerCoupling} {op : AgentOp} {s t : State} (h : performUnder c op s = .next t)
    (ops : List AgentOp) : performAllUnder c (op :: ops) s = performAllUnder c ops t := by
  simp [performAllUnder, h]

/-- A run is a run of its first part and then of the rest. -/
theorem performAllUnder_append (c : TimerCoupling) : ∀ (ops rest : List AgentOp) {s t : State},
    performAllUnder c ops s = .next t → performAllUnder c (ops ++ rest) s = performAllUnder c rest t
  | [], _, _, _, h => by cases h; rfl
  | op :: ops, rest, s, t, h => by
    cases hp : performUnder c op s with
    | next u =>
      rw [performAllUnder_cons hp] at h
      rw [List.cons_append, performAllUnder_cons hp]
      exact performAllUnder_append c ops rest h
    | fault r => cases r
    | refused r => simp [performAllUnder, hp] at h

@[simp] theorem State.launch_keypad (keys : Vector Bool 16) (bytes : List Byte) :
    (State.launch keys bytes).keypad = keys := rfl

theorem State.launch_memory {keys : Vector Bool 16} {bytes : List Byte} (h : bytes.length ≤ 3584) :
    (State.launch keys bytes).memory = State.reset.memory.writeBytes 0x200 bytes := by
  simp [State.launch, State.loadProgram, Nat.not_lt.mpr h]

/-- Whether or not the program fits, only memory and the keypad differ from reset (R292). -/
theorem State.launch_only_memory_keypad (keys : Vector Bool 16) (bytes : List Byte) :
    State.launch keys bytes =
      { State.reset with memory := (State.launch keys bytes).memory, keypad := keys } := by
  unfold State.launch State.loadProgram
  split <;> rfl

/-- Setting keys one after another changes the keypad only. -/
theorem setKeys (keys : Vector Bool 16) : ∀ (ks : List Key) (s : State),
    ∃ pad, performAll (ks.map (fun k => .setKey k keys[k.val])) s = .next { s with keypad := pad } ∧
      ∀ j : Key, pad[j.val] = if j ∈ ks then keys[j.val] else s.keypad[j.val]
  | [], s => ⟨s.keypad, rfl, by simp⟩
  | k :: ks, s => by
    obtain ⟨pad, hrun, hpad⟩ := setKeys keys ks (s.setKey k keys[k.val])
    refine ⟨pad, hrun, fun j => ?_⟩
    rw [hpad j]
    by_cases hj : j ∈ ks
    · simp [hj]
    · by_cases hk : j = k
      · subst hk
        simp [hj, State.setKey]
      · have : k.val ≠ j.val := fun e => hk (Fin.ext e.symm)
        simp [hj, hk, State.setKey, this]

/-- The boot sequence reaches the launch state from every state: `Initialize`, a `LoadProgram` that fits, then `SetKey` for
each key (R290 to R292). The model's own fields stay, with the answer of the load among the outputs. -/
theorem boot_reaches_launch (s : State) (bytes : List Byte) (keys : Vector Bool 16) (h : bytes.length ≤ 3584) :
    performAll (.initializeState :: .loadProgram bytes ::
        (List.finRange 16).map (fun k => .setKey k keys[k.val])) s =
      .next { State.launch keys bytes with
        draws := s.draws, schedule := s.schedule, outputs := s.outputs ++ [.loadResult .ok] } := by
  have hload : (s.initializeState.loadProgram bytes).2.emit (.loadResult (s.initializeState.loadProgram bytes).1) =
      { State.launch State.reset.keypad bytes with
        draws := s.draws, schedule := s.schedule, outputs := s.outputs ++ [.loadResult .ok] } := by
    simp [State.launch, State.loadProgram, Nat.not_lt.mpr h, State.initializeState, State.emit]
  obtain ⟨pad, hrun, hpad⟩ := setKeys keys (List.finRange 16) { State.launch State.reset.keypad bytes with
    draws := s.draws, schedule := s.schedule, outputs := s.outputs ++ [.loadResult .ok] }
  have hkeys : pad = keys := Vector.ext fun k hk => by simpa using hpad ⟨k, hk⟩
  subst hkeys
  rw [← hload] at hrun
  exact hrun.trans (by rw [hload]; rfl)

end Sys2Proof.Machine
end

