-- ==== Sys2Proof/Tests/Slice0.lean ====
section
/-! SUPPORT. The model's own tests: the ill-formed terms WellFormed refuses, the words of spec/30_encoding.md R94 decoded,
single steps on the vectors of spec/95_test_vectors.md (the id of the vector stands before each), and for every statement
with hypotheses a concrete state and operands that meet them. -/

namespace Sys2Proof.Tests

open Sys2Proof.Machine Sys2Proof.Spec

/-! ## WellFormed -/

/-- R95, R96: `SYS 0E0` would be the word of CLS. -/
theorem test_wf_refuses_sys_0E0 : (Instr.sys 0x0E0#12).wf = false := by decide

/-- R95, R96: `SYS 0EE` would be the word of RET. -/
theorem test_wf_refuses_sys_0EE : (Instr.sys 0x0EE#12).wf = false := by decide

/-- R141: the near misses are SYS. -/
theorem test_wf_accepts_near_misses : (Instr.sys 0x0E1#12).wf ∧ (Instr.sys 0xEE0#12).wf ∧ (Instr.sys 0#12).wf := by
  decide

/-! ## Decode: each word written out from the pattern of its row (R94) -/

theorem test_decode_family_0 : decode 0x00E0#16 = .ok .cls ∧ decode 0x00EE#16 = .ok .ret ∧
    decode 0x0123#16 = .ok (.sys 0x123#12) ∧ decode 0x0000#16 = .ok (.sys 0#12) ∧
    decode 0x0EE0#16 = .ok (.sys 0xEE0#12) := by decide

theorem test_decode_jumps : decode 0x1234#16 = .ok (.jp 0x234#12) ∧ decode 0x2ABC#16 = .ok (.call 0xABC#12) ∧
    decode 0xB300#16 = .ok (.jpV0 0x300#12) ∧ decode 0xA2F0#16 = .ok (.ldINnn 0x2F0#12) := by decide

theorem test_decode_immediates : decode 0x332A#16 = .ok (.seVxNn 3 0x2A#8) ∧
    decode 0x432B#16 = .ok (.sneVxNn 3 0x2B#8) ∧ decode 0x6FAB#16 = .ok (.ldVxNn 0xF 0xAB#8) ∧
    decode 0x70FE#16 = .ok (.addVxNn 0 0xFE#8) ∧ decode 0xC30F#16 = .ok (.rnd 3 0x0F#8) := by decide

theorem test_decode_register_skips : decode 0x5120#16 = .ok (.seVxVy 1 2) ∧
    decode 0x9ED0#16 = .ok (.sneVxVy 0xE 0xD) := by decide

theorem test_decode_family_8 : decode 0x8120#16 = .ok (.ldVxVy 1 2) ∧ decode 0x8341#16 = .ok (.orVxVy 3 4) ∧
    decode 0x8562#16 = .ok (.andVxVy 5 6) ∧ decode 0x8783#16 = .ok (.xorVxVy 7 8) ∧
    decode 0x89A4#16 = .ok (.addVxVy 9 0xA) ∧ decode 0x8BC5#16 = .ok (.sub 0xB 0xC) ∧
    decode 0x8DE6#16 = .ok (.shr 0xD 0xE) ∧ decode 0x8F07#16 = .ok (.subn 0xF 0) ∧
    decode 0x812E#16 = .ok (.shl 1 2) := by decide

/-- TC9. -/
theorem test_decode_draw : decode 0xD12A#16 = .ok (.drw 1 2 0xA#4) := by decide

theorem test_decode_keypad_timers : decode 0xE59E#16 = .ok (.skp 5) ∧ decode 0xE6A1#16 = .ok (.sknp 6) ∧
    decode 0xF307#16 = .ok (.ldVxDt 3) ∧ decode 0xF20A#16 = .ok (.ldVxK 2) ∧
    decode 0xF415#16 = .ok (.ldDtVx 4) ∧ decode 0xF718#16 = .ok (.ldStVx 7) := by decide

theorem test_decode_index_memory : decode 0xF21E#16 = .ok (.addIVx 2) ∧ decode 0xF429#16 = .ok (.ldFVx 4) ∧
    decode 0xF033#16 = .ok (.ldBVx 0) ∧ decode 0xFE55#16 = .ok (.stV0Vx 0xE) ∧
    decode 0xF265#16 = .ok (.ldV0Vx 2) := by decide

/-- TC8. -/
theorem test_decode_unknown_5_8_9 :
    decode 0x5001#16 = .error (.unknownOpcode 0x5001#16) ∧
    decode 0x500F#16 = .error (.unknownOpcode 0x500F#16) ∧
    decode 0x8008#16 = .error (.unknownOpcode 0x8008#16) ∧
    decode 0x8129#16 = .error (.unknownOpcode 0x8129#16) ∧
    decode 0x812F#16 = .error (.unknownOpcode 0x812F#16) ∧
    decode 0x9001#16 = .error (.unknownOpcode 0x9001#16) := by decide

/-- TC8. -/
theorem test_decode_unknown_E :
    decode 0xE000#16 = .error (.unknownOpcode 0xE000#16) ∧
    decode 0xE09F#16 = .error (.unknownOpcode 0xE09F#16) ∧
    decode 0xE1A0#16 = .error (.unknownOpcode 0xE1A0#16) := by decide

/-- TC8. -/
theorem test_decode_unknown_F :
    decode 0xF000#16 = .error (.unknownOpcode 0xF000#16) ∧
    decode 0xF00B#16 = .error (.unknownOpcode 0xF00B#16) ∧
    decode 0xF1FF#16 = .error (.unknownOpcode 0xF1FF#16) ∧
    decode 0xF056#16 = .error (.unknownOpcode 0xF056#16) ∧
    decode 0xF075#16 = .error (.unknownOpcode 0xF075#16) ∧
    decode 0xF085#16 = .error (.unknownOpcode 0xF085#16) := by decide

/-- R90: one byte is no instruction. -/
theorem test_decode_truncated : decodeBytes [0x12#8] = .error .truncated := by decide

/-- R63: the first byte is the high one. -/
theorem test_decode_table_word : decodeTableWord 16 0x1234 = some (.jp 0x234#12) := by decide

/-! ## Single steps -/

/-- Reset with the registers given written. -/
def withRegs (rs : List (Reg × Byte)) : State := rs.foldl (fun s p => s.setReg p.1 p.2) State.reset

/-- Reset with `I` and the bytes given at `EA(I)` upward, and the registers given. -/
def withBytes (i : Word) (bs : List Byte) (rs : List (Reg × Byte)) : State :=
  ((withRegs rs).setI i).storeFrom 0 bs

/-- What one step of the word `w` leaves, seen through `f`. -/
def after {α : Type} (w : Nat) (s : State) (f : State → α) : Option α :=
  match step (s.withFetchWord 16 w) with
  | .next t => some (f t)
  | .fault _ => none
  | .refused _ => none

/-- What an operation of an agent leaves, seen through `f`. -/
def afterOp {α : Type} (op : AgentOp) (s : State) (f : State → α) : Option α :=
  match perform op s with
  | .next t => some (f t)
  | .fault _ => none
  | .refused _ => none

/-- TC2: the low byte of a fetch at 0xFFF comes from 0x000. -/
theorem test_fetch_wraps : cycle ((State.reset.setPc 0x0FFF).placeWord 0x6077#16) =
    .next ((((State.reset.setPc 0x0FFF).placeWord 0x6077#16).setPc 0x1001).setReg 0 0x77#8) := by
  have hf := placeWord_fetch (State.reset.setPc 0x0FFF) 0x6077#16 Memory.empty_wf
  have hd : decode 0x6077#16 = .ok (.ldVxNn 0 0x77#8) := by decide
  have h0 : ((State.reset.setPc 0x0FFF).placeWord 0x6077#16).fault = none := rfl
  simp only [cycle, h0, hf, hd]
  rfl

/-- TC5: an odd `PC`. -/
theorem test_fetch_odd : after 0x6A2B (State.reset.setPc 0x0201) (fun t => (t.reg 0xA, t.pc)) =
    some (0x2B#8, 0x0203#16) := by decide

/-- TC6: a halted machine does nothing. -/
theorem test_halted_cycle : afterOp .cycle (State.reset.raise .stackOverflow)
    (fun t => t = State.reset.raise .stackOverflow) = some True := by
  simp [afterOp, cycle]

/-- TC11: an unknown opcode. -/
theorem test_unknown_opcode : after 0x8129 (withRegs [(1, 3), (2, 4), (15, 9)])
    (fun t => (t.pc, t.reg 1, t.reg 15, t.outputs)) =
    some (0x202#16, 3#8, 9#8, [.unknownOpcode 0x8129#16 0x0200#16]) := by decide

/-- TJ1. -/
theorem test_sys : after 0x0123 State.reset (fun t => (t.pc, t.sp, t.outputs)) = some (0x202#16, 0, []) := by decide

/-- TJ3. -/
theorem test_jp : after 0x1FFF State.reset (fun t => t.pc) = some 0x0FFF#16 := by decide

/-- TJ4: the sum is not masked. -/
theorem test_jp_v0 : after 0xBFFF (withRegs [(0, 0xFF)]) (fun t => t.pc) = some 0x10FE#16 := by decide

/-- TJ6: the sixteenth nested call. -/
theorem test_call_sixteenth :
    after 0x2ABC { State.reset with pc := 0x400, sp := 15 } (fun t => (t.stack[15], t.sp, t.pc, t.fault)) =
    some (0x0402#16, 16, 0x0ABC#16, none) := by decide

/-- TJ7: the seventeenth. -/
theorem test_call_overflow :
    after 0x2ABC { State.reset with sp := 16, stack := Vector.replicate 16 0x0111 }
      (fun t => (t.fault, t.pc, t.sp, t.stack[15])) =
    some (some .stackOverflow, 0x0202#16, 16, 0x0111#16) := by decide

/-- TJ9: all 16 bits are popped and the slot keeps its value. -/
theorem test_ret :
    after 0x00EE { State.reset with sp := 2, stack := (State.reset.stack.set 0 0x0206).set 1 0x1234 }
      (fun t => (t.sp, t.pc, t.stack[1])) = some (1, 0x1234#16, 0x1234#16) := by decide

/-- TJ8. -/
theorem test_ret_underflow : after 0x00EE State.reset (fun t => (t.fault, t.pc, t.sp)) =
    some (some .stackUnderflow, 0x0202#16, 0) := by decide

/-- TJ10, TJ12. -/
theorem test_immediate_skips : after 0x332A (withRegs [(3, 0x2A)]) (fun t => t.pc) = some 0x204#16 ∧
    after 0x432A (withRegs [(3, 0x2A)]) (fun t => t.pc) = some 0x202#16 := by decide

/-- TJ11, TJ13. -/
theorem test_immediate_skips_other : after 0x332A (withRegs [(3, 0x2B)]) (fun t => t.pc) = some 0x202#16 ∧
    after 0x432A (withRegs [(3, 0x00)]) (fun t => t.pc) = some 0x204#16 := by decide

/-- TJ15, TJ17. -/
theorem test_register_skips : after 0x5120 (withRegs [(1, 7), (2, 8)]) (fun t => t.pc) = some 0x202#16 ∧
    after 0x9120 (withRegs [(1, 7), (2, 8)]) (fun t => t.pc) = some 0x204#16 := by decide

/-- TJ19: the skip wraps at 16 bits. -/
theorem test_skip_wraps : after 0x3000 (State.reset.setPc 0xFFFC) (fun t => t.pc) = some 0x0000#16 := by decide

/-- TA1. -/
theorem test_ld_vx_nn : after 0x6FAB State.reset (fun t => t.reg 0xF) = some 0xAB#8 := by decide

/-- S2: no carry recorded. -/
theorem test_add_vx_nn : after 0x700A (withRegs [(0, 250), (15, 1)]) (fun t => (t.reg 0, t.reg 15)) =
    some (4#8, 1#8) := by decide

/-- TA4. -/
theorem test_ld_vx_vy : after 0x8120 (withRegs [(2, 0x5C)]) (fun t => t.reg 1) = some 0x5C#8 := by decide

/-- TA5. -/
theorem test_or : after 0x8121 (withRegs [(1, 0xF0), (2, 0x3C), (15, 7)]) (fun t => (t.reg 1, t.reg 15)) =
    some (0xFC#8, 7#8) := by decide

/-- TA6. -/
theorem test_and : after 0x8122 (withRegs [(1, 0xF0), (2, 0x3C), (15, 7)]) (fun t => (t.reg 1, t.reg 15)) =
    some (0x30#8, 7#8) := by decide

/-- TA7. -/
theorem test_xor : after 0x8123 (withRegs [(1, 0xF0), (2, 0x3C), (15, 7)]) (fun t => (t.reg 1, t.reg 15)) =
    some (0xCC#8, 7#8) := by decide

/-- TA9, TA10: sums 255 and 256. -/
theorem test_add_carry_edge :
    after 0x8124 (withRegs [(1, 0xFF), (2, 0), (15, 1)]) (fun t => (t.reg 1, t.reg 15)) = some (0xFF#8, 0#8) ∧
    after 0x8124 (withRegs [(1, 0xFF), (2, 1)]) (fun t => (t.reg 1, t.reg 15)) = some (0x00#8, 1#8) := by decide

/-- TA13, TA14: VF as operand and as destination. -/
theorem test_add_vf : after 0x81F4 (withRegs [(1, 250), (15, 10)]) (fun t => (t.reg 1, t.reg 15)) = some (4#8, 1#8) ∧
    after 0x8F14 (withRegs [(15, 200), (1, 100)]) (fun t => t.reg 15) = some 44#8 := by decide

/-- S5, TA15. -/
theorem test_sub : after 0x8125 (withRegs [(1, 5), (2, 10), (15, 1)]) (fun t => (t.reg 1, t.reg 15)) =
      some (251#8, 0#8) ∧
    after 0x8125 (withRegs [(1, 7), (2, 7)]) (fun t => (t.reg 1, t.reg 15)) = some (0#8, 1#8) := by decide

/-- TA18, TA19. -/
theorem test_subn : after 0x8127 (withRegs [(1, 5), (2, 10)]) (fun t => (t.reg 1, t.reg 15)) = some (5#8, 1#8) ∧
    after 0x8127 (withRegs [(1, 10), (2, 5)]) (fun t => (t.reg 1, t.reg 15)) = some (251#8, 0#8) := by decide

/-- TA21: `VY` is ignored. -/
theorem test_shr : after 0x8126 (withRegs [(1, 5), (2, 0xEE)]) (fun t => (t.reg 1, t.reg 15, t.reg 2)) =
    some (2#8, 1#8, 0xEE#8) := by decide

/-- TA24. -/
theorem test_shr_vf : after 0x8F06 (withRegs [(15, 0xFF)]) (fun t => t.reg 15) = some 0#8 := by decide

/-- TA25: the flag is 1, not 0x80. -/
theorem test_shl : after 0x812E (withRegs [(1, 0x81), (2, 0xEE)]) (fun t => (t.reg 1, t.reg 15, t.reg 2)) =
    some (2#8, 1#8, 0xEE#8) := by decide

/-- TA28, TA29. -/
theorem test_shl_vf : after 0x8F0E (withRegs [(15, 0x80)]) (fun t => t.reg 15) = some 2#8 ∧
    after 0x8F0E (withRegs [(15, 0x7F)]) (fun t => t.reg 15) = some 0#8 := by decide

/-- TA31: any draw; one draw is used. -/
theorem test_rnd : after 0xC300 (withRegs [(3, 9)]) (fun t => (t.reg 3, t.draws)) = some (0#8, 1) := by
  have h : Config.randomByte 0 &&& 0#8 = 0#8 := by simp
  exact congrArg (fun b => some (b, 1)) h

/-- TM1. -/
theorem test_ld_i : after 0xA2F0 State.reset (fun t => t.i) = some 0x02F0#16 := by decide

/-- TM3, TM4: not masked at 12 bits, wrapped at 16. -/
theorem test_add_i : after 0xF21E ((withRegs [(2, 1)]).setI 0x0FFF) (fun t => (t.i, t.reg 15)) =
      some (0x1000#16, 0#8) ∧
    after 0xF21E ((withRegs [(2, 1)]).setI 0xFFFF) (fun t => t.i) = some 0x0000#16 := by decide

/-- TM5, TM6. -/
theorem test_ld_f : after 0xF429 (withRegs [(4, 0x0A)]) (fun t => t.i) = some 0x0032#16 ∧
    after 0xF429 (withRegs [(4, 0xFF)]) (fun t => t.i) = some 0x04FB#16 := by decide

/-- TM8: stored from the most significant digit up. -/
theorem test_bcd : after 0xF033 (withBytes 0x300 [9, 9, 9] [(0, 255)])
    (fun t => (t.readMem 0x300, t.readMem 0x301, t.readMem 0x302, t.i)) =
    some (2#8, 5#8, 5#8, 0x300#16) := by decide

/-- TM12. -/
theorem test_store : after 0xF255 (withBytes 0x400 [] [(0, 0x11), (1, 0x22), (2, 0x33), (3, 0x44)])
    (fun t => (t.readMem 0x400, t.readMem 0x401, t.readMem 0x402, t.readMem 0x403, t.i)) =
    some (0x11#8, 0x22#8, 0x33#8, 0#8, 0x400#16) := by decide

/-- TM15. -/
theorem test_load : after 0xF265 (withBytes 0x300 [2, 5, 4, 7] [(3, 0xEE)])
    (fun t => (t.reg 0, t.reg 1, t.reg 2, t.reg 3, t.i)) =
    some (2#8, 5#8, 4#8, 0xEE#8, 0x300#16) := by decide

/-- TG10, TG11. -/
theorem test_cls : after 0x00E0 { State.reset with display := Vector.replicate 32 (Vector.replicate 64 true) }
    (fun t => (t.cell 0 0, t.cell 63 31, t.redrawPending)) = some (false, false, true) := by decide

/-- TG3: wrapped in both axes. -/
theorem test_draw_wraps : after 0xD012 (withBytes 0x300 [0xC0, 0x81] [(0, 62), (1, 31)])
    (fun t => (t.cell 62 31, t.cell 63 31, t.cell 62 0, t.cell 5 0, t.cell 63 0, t.reg 15)) =
    some (true, true, true, true, false, 0#8) := by decide

/-- TG4: a collision. -/
theorem test_draw_collides : after 0xD011
    { withBytes 0x300 [0xC0] [] with display := flipCell blankDisplay 1 0 }
    (fun t => (t.cell 0 0, t.cell 1 0, t.reg 15, t.redrawPending)) = some (true, false, 1#8, true) := by decide

/-- TK1, TK3: the low nibble selects the key. -/
theorem test_skp : after 0xE59E ((withRegs [(5, 7)]).setKey 7 true) (fun t => t.pc) = some 0x204#16 ∧
    after 0xE59E ((withRegs [(5, 0x1A)]).setKey 0xA true) (fun t => t.pc) = some 0x204#16 := by decide

/-- TK4, TK5. -/
theorem test_sknp : after 0xE5A1 (withRegs [(5, 7)]) (fun t => t.pc) = some 0x204#16 ∧
    after 0xE5A1 ((withRegs [(5, 7)]).setKey 7 true) (fun t => t.pc) = some 0x202#16 := by decide

/-- TK6. -/
theorem test_key_wait : after 0xF20A (withRegs [(2, 0x55)]) (fun t => (t.reg 2, t.pc)) =
    some (0x55#8, 0x200#16) := by decide

/-- TK7, TK9. -/
theorem test_key_taken : after 0xF20A ((withRegs [(2, 0x55)]).setKey 0 true) (fun t => (t.reg 2, t.pc)) =
      some (0#8, 0x202#16) ∧
    after 0xFF0A (State.reset.setKey 0xF true) (fun t => (t.reg 0xF, t.pc)) = some (0x0F#8, 0x202#16) := by decide

/-- TK8: with keys 3 and 9 down, `lowest` gives 3, `highest` gives 9, and `any` one of the two. -/
theorem test_key_select : ((State.reset.setKey 3 true).setKey 9 true).keysDown = [3, 9] ∧
    selectKey .lowest 0 3 [9] = 3 ∧ selectKey .highest 0 3 [9] = 9 := by decide

theorem test_key_select_any (n : Nat) : selectKey .any n 3 [9] = 3 ∨ selectKey .any n 3 [9] = 9 := by
  simpa using selectKey_mem .any n 3 [9]

/-- TK10. -/
theorem test_ld_vx_dt : after 0xF307 (State.reset.setDt 0x3C) (fun t => (t.reg 3, t.dt)) = some (0x3C#8, 0x3C#8) := by
  decide

/-- TK11. -/
theorem test_ld_dt_vx : after 0xF315 (withRegs [(3, 0x3C)]) (fun t => t.dt) = some 0x3C#8 := by decide

/-- TK12. -/
theorem test_ld_st_vx : after 0xF318 (withRegs [(3, 2)]) (fun t => (t.st, t.buzzerRequested)) = some (2#8, false) := by
  decide

/-- TK13, TK15, TK16, TK20. -/
theorem test_timer_tick : afterOp .timerTick (State.reset.setDt 5) (fun t => (t.dt, t.st, t.buzzerRequested)) =
      some (4#8, 0#8, false) ∧
    afterOp .timerTick (State.reset.setSt 2) (fun t => (t.st, t.buzzerRequested)) = some (1#8, false) ∧
    afterOp .timerTick ((State.reset.setSt 1).raise .stackOverflow) (fun t => (t.st, t.buzzerRequested, t.fault)) =
      some (0#8, true, some .stackOverflow) := by decide

/-- TK19: under `per_cycle` the tick follows the instruction in the same step. -/
theorem test_per_cycle : (match cycleUnder .perCycle (((withRegs [(3, 3)]).setDt 3).withFetchWord 16 0xF315) with
    | .next t => t.dt
    | _ => 0xFF#8) = 2#8 := by decide

/-- R127, R265: under `per_cycle` a tick of the schedule's own does not happen, and a halted cycle brings none. -/
theorem test_per_cycle_no_other_tick : performUnder .perCycle .timerTick (State.reset.setDt 5) =
      .next (State.reset.setDt 5) ∧
    performUnder .perCycle .cycle ((State.reset.setDt 5).raise .stackOverflow) =
      .next ((State.reset.setDt 5).raise .stackOverflow) := ⟨rfl, rfl⟩

/-- TK21, TK22, TK23. -/
theorem test_host_writes : afterOp (.setKey 4 true) State.reset (fun t => (t.keyDown 4, t.keyDown 5)) =
      some (true, false) ∧
    afterOp .clearRedraw { State.reset with redrawPending := true } (fun t => t.redrawPending) = some false ∧
    afterOp .clearBuzzer { State.reset with buzzerRequested := true } (fun t => t.buzzerRequested) = some false := by
  decide

/-- TR1. -/
theorem test_initialize : afterOp .initializeState { State.reset with fault := some .stackUnderflow, sp := 9, dt := 40 }
    (fun t => (t.fault, t.sp, t.dt, t.pc)) = some (none, 0, 0#8, 0x200#16) := by decide

/-- TR2. -/
theorem test_load_program : afterOp (.loadProgram [0x12, 0x00]) State.reset
    (fun t => (t.readMem 0x200, t.readMem 0x201, t.pc, t.outputs)) =
    some (0x12#8, 0x00#8, 0x200#16, [.loadResult .ok]) := by decide

/-- TR5: 3585 bytes are one too many. -/
theorem test_load_program_too_long :
    (State.reset.loadProgram (List.replicate 3585 0xAB)) = (.loadError, State.reset) := by
  unfold State.loadProgram
  rw [List.length_replicate, if_pos (by decide)]

/-- R28: the linear index of a cell is `y * 64 + x`. -/
theorem test_display_buffer : ({ State.reset with display := flipCell blankDisplay 5 1 }).displayBuffer[69]? =
    some true := by decide

/-- An operation of the schedule comes before the cycle (log 1). -/
theorem test_schedule_head : (match step { State.reset.setDt 5 with schedule := [.timerTick] } with
    | .next t => (t.dt, t.pc, t.schedule)
    | _ => (0xFF#8, 0#16, [])) = (4#8, 0x200#16, []) := by decide

/-! ## Witnesses: concrete states and operands that meet the hypotheses of each statement that has some -/

/-- Reset with the word `w` at 0x200. -/
def placed (w : Nat) : State := State.reset.withFetchWord 16 w

theorem reset_wf : State.reset.memory.wf := Memory.empty_wf

theorem witness_DecodeOfEncodeIsIdentity : (Instr.addVxVy 1 2).wf = true ∧ (Instr.sys 0x123#12).wf = true := by decide

theorem witness_EncodeOfDecodeIsIdentity : decode 0x8126#16 = .ok (.shr 1 2) := by decide

theorem witness_UnknownOpcodesAreExactlyTheTable : Unknown 0x5001#16 ∧ ¬ Unknown 0x5120#16 := by
  constructor
  · exact .inl (by decide)
  · unfold Unknown
    decide

theorem witness_StepRunsTheDecodedInstruction : AtInstr (placed 0x8124) (.addVxVy 1 2) ∧
    (placed 0x8124).schedule = [] := by
  unfold AtInstr
  decide

theorem witness_StepRunsTheDecodedInstruction_scheduled :
    AtInstr { placed 0x8124 with schedule := [.cycle, .timerTick] } (.addVxVy 1 2) := by
  unfold AtInstr
  decide

theorem witness_StepPerformsTheHeadOfTheSchedule :
    ({ State.reset with schedule := [.timerTick, .cycle] } : State).schedule = .timerTick :: [.cycle] ∧
      State.reset.schedule = [] := ⟨rfl, rfl⟩

theorem witness_PlacedWordRunsNext : (State.reset.setPc 0xFFFF).memory.wf ∧ decode (BitVec.ofNat 16 0x6A2B) =
    .ok (.ldVxNn 0xA 0x2B#8) ∧ 0x6A2B < 65536 := ⟨reset_wf, by decide, by decide⟩

theorem witness_UnknownOpcodeIsReportedNoOp : (placed 0x5001).fault = none ∧ fetchedWord (placed 0x5001) = 0x5001#16 ∧
    Unknown 0x5001#16 := ⟨by decide, by decide, .inl (by decide)⟩

theorem witness_PcAfterEveryCycle : (placed 0x5440).fault = none ∧
    decode (fetchedWord (placed 0x5440)) = .ok (.seVxVy 4 4) := by decide

theorem witness_FinishedStateIsAFixedPoint : (placed 0x1200).finished :=
  ⟨by decide, 0x200#12, by decide, by decide⟩

theorem witness_StackFaultsExactly_call : ({ State.reset with sp := 16 } : State).fault = none ∧
    exec (.call 0x300#12) { State.reset with sp := 16 } =
      .next { State.reset with sp := 16, fault := some .stackOverflow } := ⟨rfl, rfl⟩

theorem witness_StackFaultsExactly_ret : State.reset.fault = none ∧
    exec .ret State.reset = .next { State.reset with fault := some .stackUnderflow } := ⟨rfl, rfl⟩

theorem witness_FaultEntryThenHalted : AtInstr { placed 0x2300 with sp := 16 } (.call 0x300#12) ∧
    ({ placed 0x2300 with sp := 16 } : State).sp.val = 16 ∧ AtInstr (placed 0x00EE) .ret ∧
    (placed 0x00EE).sp.val = 0 := by
  unfold AtInstr
  decide

theorem witness_HaltedUntilInitialize : (State.reset.raise .stackOverflow).fault = some .stackOverflow := rfl

theorem witness_HaltedUntilInitialize_initialize :
    ({ State.reset.raise .stackOverflow with schedule := [.initializeState] } : State).nextOp = .initializeState := rfl

theorem witness_HaltedUntilInitialize_cycle : (State.reset.raise .stackOverflow).nextOp = .cycle := rfl

theorem witness_SysIsANoOp : (0x0E1#12 : Addr) ≠ 0x0E0#12 ∧ (0x0E1#12 : Addr) ≠ 0x0EE#12 ∧
    AtInstr (placed 0x00E1) (.sys 0x0E1#12) := by
  unfold AtInstr
  decide

theorem witness_ReturnPopsPc : 0 < ({ State.reset with sp := 16 } : State).sp.val ∧ State.reset.sp.val = 0 := by decide

theorem witness_JumpSetsPc : AtInstr (placed 0x1200) (.jp 0x200#12) ∧
    (0x200#12 : Addr).toNat = (placed 0x1200).pc.toNat := by
  unfold AtInstr
  decide

theorem witness_CallPushesPc : ({ State.reset with sp := 15 } : State).sp.val < 16 ∧
    ({ State.reset with sp := 16 } : State).sp.val = 16 := by decide

/-- `CALL 0x202` at 0x200, with RET at 0x202. -/
def callThenRet : State := ((placed 0x2202).setPc 0x202).placeWord 0x00EE |>.setPc 0x200

theorem witness_CallThenReturnComesBack : AtInstr callThenRet (.call 0x202#12) ∧ callThenRet.sp.val < 16 ∧
    ∃ t, cycle callThenRet = .next t ∧ AtInstr t .ret := by
  refine ⟨by unfold AtInstr; decide, by decide, _, rfl, ?_⟩
  unfold AtInstr
  decide

theorem witness_RegisterSkips : 0 < 15 ∧ 15 < 16 := by decide

theorem witness_AddSetsCarry : (1 : Reg) ≠ 15 := by decide

theorem witness_SubSetsNotBorrow : (0 : Reg) ≠ 15 := by decide

theorem witness_SubnSetsNotBorrow : (14 : Reg) ≠ 15 := by decide

theorem witness_ShiftRightSetsFlag : (1 : Reg) ≠ 15 ∧ (15 : Reg) = 15 := by decide

theorem witness_ShiftLeftSetsFlag : (1 : Reg) ≠ 15 ∧ (15 : Reg) = 15 := by decide

theorem witness_RandomIsMaskedDraw : (0x0F#8).getLsbD 7 = false := by decide

theorem witness_DecimalDigitsStored : (State.reset.setI 0x0FFE).memory.wf := reset_wf

theorem witness_RegistersStored : (State.reset.setI 0x0FF8).memory.wf ∧ (15 : Reg) ≤ 15 := ⟨reset_wf, by decide⟩

theorem witness_RegistersLoaded : (2 : Reg) ≤ 2 ∧ (2 : Reg) < 3 := by decide

theorem witness_StoreIsSeenByFetch : (State.reset.setI 0x0FFF).memory.wf ∧ (State.reset.setI 0x0FFF).fault = none ∧
    14 < (15 : Reg).val ∧ decode (BitVec.ofNat 16 (0x6A * 256 + 0x2B)) = .ok (.ldVxNn 0xA 0x2B#8) ∧
    decode (BitVec.ofNat 16 (0x50 * 256 + 0x01)) = .error (.unknownOpcode 0x5001#16) :=
  ⟨reset_wf, rfl, by decide, by decide, by decide⟩

theorem witness_StoreIsSeenByFetch_next :
    ((placed 0xF155).setI 0x0202).memory.wf ∧ AtInstr ((placed 0xF155).setI 0x0202) (.stV0Vx 1) ∧ (1 : Reg) ≤ 1 ∧
      ((placed 0xF155).setI 0x0202).i = BitVec.ofNat 16 (((placed 0xF155).setI 0x0202).pc.toNat + 2) := by
  refine ⟨Memory.write_wf (Memory.write_wf reset_wf _ _) _ _, ?_⟩
  unfold AtInstr
  decide

theorem witness_StoreIsSeenByFetch_own_bytes :
    ((placed 0xF155).setI 0x0200).memory.wf ∧ AtInstr ((placed 0xF155).setI 0x0200) (.stV0Vx 1) ∧
      ((placed 0xF155).setI 0x0200).i = ((placed 0xF155).setI 0x0200).pc := by
  refine ⟨Memory.write_wf (Memory.write_wf reset_wf _ _) _ _, ?_⟩
  unfold AtInstr
  decide

/-- A state whose 8-pixel sprite at 0x300, drawn at (0, 0), meets one cell that is on. -/
def collider : State := { withBytes 0x300 [0xC0] [] with display := flipCell blankDisplay 1 0 }

theorem witness_DrawIsXorWithWrappedSprite :
    Covers collider (collider.reg 0) (collider.reg 1) 1 1 0 ∧ collider.cell 1 0 = true :=
  ⟨⟨0, by decide, 1, by decide, by decide⟩, by decide⟩

theorem witness_DrawIsXorWithWrappedSprite_empty :
    ¬ ∃ cx cy, Covers collider (collider.reg 0) (collider.reg 1) 0 cx cy ∧ collider.cell cx cy = true := by
  rintro ⟨_, _, ⟨r, hr, _⟩, _⟩
  exact absurd hr (Nat.not_lt_zero r)

theorem witness_DrawTwiceRestoresDisplay : ∃ t, exec (.drw 0 1 1#4) collider = .next t ∧
    t.reg 0 = collider.reg 0 ∧ t.reg 1 = collider.reg 1 := ⟨_, rfl, rfl, rfl⟩

theorem witness_KeySkips : ((withRegs [(5, 0x1A)]).reg 5).toNat % 16 = (0xA : Key).val := by decide

theorem witness_KeyWait_waits : (∀ k, (placed 0xF20A).keyDown k = false) ∧ AtInstr (placed 0xF20A) (.ldVxK 2) := by
  unfold AtInstr
  decide

theorem witness_KeyWait_taken : (∃ k, (State.reset.setKey 0xF true).keyDown k = true) ∧
    OnlyKeyDown (State.reset.setKey 0xF true) 0xF := by
  unfold OnlyKeyDown
  decide

theorem witness_BuzzerAtEndOfPeriod : (State.reset.setSt 1).buzzerRequested = false ∧
    0 < (State.reset.setSt 1).st.toNat := by decide

theorem witness_DelayTimerRisesOnlyByFX15 :
    ∃ t, step ((withRegs [(3, 0x3C)]).withFetchWord 16 0xF315) = .next t ∧
      ((withRegs [(3, 0x3C)]).withFetchWord 16 0xF315).dt.toNat < t.dt.toNat := ⟨_, rfl, by decide⟩

theorem witness_RedrawPendingSetAndCleared_initialize :
    ({ State.reset with redrawPending := true, schedule := [.initializeState] } : State).nextOp = .initializeState := rfl

theorem witness_SoundTimerAndBuzzerChange_tick :
    ∃ t, step { State.reset.setSt 1 with schedule := [.timerTick] } = .next t ∧ t.st ≠ (State.reset.setSt 1).st :=
  ⟨_, rfl, by decide⟩

theorem witness_SoundTimerAndBuzzerChange_write :
    ∃ t, step ((withRegs [(7, 2)]).withFetchWord 16 0xF718) = .next t ∧
      t.st ≠ ((withRegs [(7, 2)]).withFetchWord 16 0xF718).st := ⟨_, rfl, by decide⟩

theorem witness_SoundTimerAndBuzzerChange_reset :
    ∃ t, step { State.reset.setSt 9 with schedule := [.initializeState] } = .next t ∧ t.st ≠ (State.reset.setSt 9).st :=
  ⟨_, rfl, by decide⟩

theorem witness_SoundTimerAndBuzzerChange_set :
    ({ State.reset.setSt 1 with schedule := [.timerTick] } : State).nextOp = .timerTick ∧
      (State.reset.setSt 1).st.toNat = 1 ∧ (State.reset.setSt 1).buzzerRequested = false := by decide

theorem witness_SoundTimerAndBuzzerChange_clear :
    ({ State.reset with buzzerRequested := true, schedule := [.clearBuzzer] } : State).nextOp = .clearBuzzer ∧
      ({ State.reset with buzzerRequested := true, schedule := [.clearBuzzer] } : State).buzzerRequested = true := by
  decide

theorem witness_PerCycleTicksOnlyAfterACycle : (State.reset.raise .stackUnderflow).fault ≠ none ∧
    (placed 0xF315).fault = none ∧ AgentOp.clearRedraw ≠ .cycle ∧ AgentOp.clearRedraw ≠ .timerTick := by decide

theorem witness_PerCycleIsASchedule : (placed 0xF315).fault = none ∧
    (State.reset.raise .stackUnderflow).fault ≠ none := by decide

theorem witness_LoadProgramWritesOrRejects : State.reset.memory.wf ∧ ([0x12#8, 0x00#8] : List Byte).length ≤ 3584 ∧
    3584 < (List.replicate 3585 0xAB#8).length := ⟨reset_wf, by decide, by rw [List.length_replicate]; decide⟩

theorem witness_WritesOnlyWhatTheMatrixLists : State.reset.memory.wf ∧
    exec (.ldINnn 0x2F0#12) State.reset = .next { State.reset with i := 0x2F0 } := ⟨reset_wf, rfl⟩

theorem witness_RedrawPendingSetAndCleared : (placed 0x00E0).nextOp = .cycle ∧ AtInstr (placed 0x00E0) .cls ∧
    AtInstr (placed 0xD015) (.drw 0 1 5#4) ∧ (placed 0x00E0).redrawPending = false := by
  unfold AtInstr
  decide

theorem witness_RedrawPendingSetAndCleared_clear :
    ({ State.reset with redrawPending := true, schedule := [.clearRedraw] } : State).nextOp = .clearRedraw := rfl

theorem witness_EveryStepGoesOnAndKeepsTheInvariant : State.reset.Inv :=
  ⟨reset_wf, by decide, by decide⟩

theorem witness_EveryStepGoesOnAndKeepsTheInvariant_halted :
    ({ State.reset with sp := 16, fault := some .stackOverflow } : State).Inv :=
  ⟨reset_wf, by decide, by decide⟩

/-- The host's duties: a load before the first cycle, and again after a reset (R274). -/
theorem test_host_duties : hostDutiesKept false [.initializeState, .loadProgram [0x12, 0x00], .cycle] = true ∧
    hostDutiesKept false [.cycle] = false ∧
    hostDutiesKept false [.loadProgram [0x12, 0x00], .initializeState, .cycle] = false := by decide

/-- R291, R292: the launch state runs the program's first instruction, with the keys the host has set. -/
theorem test_launch : (State.launch (State.reset.keypad.set 7 true) [0x12, 0x34]).fetch = 0x1234#16 ∧
    (State.launch (State.reset.keypad.set 7 true) [0x12, 0x34]).keyDown 7 = true := by decide

end Sys2Proof.Tests
end

section
/-! `redrawPending` (R29): what every instruction, every cycle and every operation of an agent makes of it. -/

namespace Sys2Proof.Machine

open Sys2Proof.Spec

/-! What the shared operations leave it as. -/

@[simp] theorem State.skipIf_redrawPending (s : State) (c : Bool) :
    (s.skipIf c).redrawPending = s.redrawPending := by
  rw [s.skipIf_only_pc c]

@[simp] theorem State.popPc_redrawPending (s : State) : s.popPc.redrawPending = s.redrawPending := by
  obtain ⟨_, h⟩ | ⟨_, h⟩ := s.popPc_cases
  · rw [h]
  · rw [h, State.raise_redrawPending]

theorem State.pushPcThen_setPc_redrawPending (s : State) (w : Word) :
    (s.pushPcThen (fun t => t.setPc w)).redrawPending = s.redrawPending := by
  obtain ⟨_, h⟩ | ⟨_, h⟩ := s.pushPcThen_cases (fun t => t.setPc w)
  · rw [h, State.setPc_redrawPending]
  · rw [h, State.raise_redrawPending]

@[simp] theorem State.storeFrom_redrawPending (s : State) (k : Nat) (bs : List Byte) :
    (s.storeFrom k bs).redrawPending = s.redrawPending := by
  rw [State.storeFrom_only_memory bs s k]

@[simp] theorem State.loadRegs_redrawPending (s : State) (rs : List Reg) :
    (s.loadRegs rs).redrawPending = s.redrawPending := by
  rw [State.loadRegs_only_v rs s]

@[simp] theorem State.tickDelay_redrawPending (s : State) : s.tickDelay.redrawPending = s.redrawPending := by
  rw [s.tickDelay_only_dt]

@[simp] theorem State.tickSound_redrawPending (s : State) : s.tickSound.redrawPending = s.redrawPending := by
  rw [s.tickSound_only_sound]

@[simp] theorem State.timerTick_redrawPending (s : State) : s.timerTick.redrawPending = s.redrawPending :=
  s.tickDelay.tickSound_redrawPending.trans s.tickDelay_redrawPending

@[simp] theorem State.loadProgram_redrawPending (s : State) (bytes : List Byte) :
    (s.loadProgram bytes).2.redrawPending = s.redrawPending := by
  unfold State.loadProgram
  split <;> rfl

/-! The instructions and the cycle. -/

/-- The two instructions that write the display. -/
theorem writesDisplay_iff (i : Instr) : writesDisplay i = true ↔ i = .cls ∨ ∃ x y n, i = .drw x y n := by
  cases i <;> simp [writesDisplay]

/-- Every instruction completes; the two that write the display set `redrawPending`, and every other one keeps it. -/
theorem exec_redrawPending (i : Instr) (s : State) :
    ∃ t, exec i s = .next t ∧ t.redrawPending = (writesDisplay i || s.redrawPending) := by
  cases i with
  | ret => exact ⟨_, rfl, s.popPc_redrawPending⟩
  | call nnn => exact ⟨_, rfl, s.pushPcThen_setPc_redrawPending (target nnn)⟩
  | seVxNn | sneVxNn | seVxVy | sneVxVy | skp | sknp => exact ⟨_, rfl, s.skipIf_redrawPending _⟩
  | ldBVx | stV0Vx => exact ⟨_, rfl, s.storeFrom_redrawPending 0 _⟩
  | ldV0Vx x => exact ⟨_, rfl, s.loadRegs_redrawPending (regsTo x)⟩
  | ldVxK x => obtain ⟨_, h⟩ | ⟨_, _, _, h⟩ := execLdVxK_cases x s <;> exact ⟨_, h, rfl⟩
  | _ => exact ⟨_, rfl, rfl⟩

/-- The word a cycle fetches is the one the statements speak of (R63, R121). -/
theorem State.fetch_eq_fetchedWord (s : State) : s.fetch = fetchedWord s := by
  have hi : ea s.pc = BitVec.ofNat 12 s.pc.toNat := BitVec.eq_of_toNat_eq (by simp [ea])
  have lo : ea (s.pc + 1) = BitVec.ofNat 12 (s.pc.toNat + 1) := BitVec.eq_of_toNat_eq (by simp [ea])
  rw [State.fetch, opcodeOf_eq_ofNat, hi, lo, fetchedWord]

/-- The machine runs, and the word at its `PC` is a 00E0 or a DXYN. -/
def AtDisplayInstr (s : State) : Prop := AtInstr s .cls ∨ ∃ x y n, AtInstr s (.drw x y n)

theorem atDisplayInstr_iff (s : State) :
    AtDisplayInstr s ↔ s.fault = none ∧ ∃ i, decode s.fetch = .ok i ∧ writesDisplay i = true := by
  simp only [AtDisplayInstr, AtInstr, ← State.fetch_eq_fetchedWord, writesDisplay_iff]
  constructor
  · rintro (⟨hf, hd⟩ | ⟨x, y, n, hf, hd⟩)
    · exact ⟨hf, _, hd, .inl rfl⟩
    · exact ⟨hf, _, hd, .inr ⟨x, y, n, rfl⟩⟩
  · rintro ⟨hf, _, hd, rfl | ⟨x, y, n, rfl⟩⟩
    · exact .inl ⟨hf, hd⟩
    · exact .inr ⟨x, y, n, hf, hd⟩

/-- After a cycle `redrawPending` is set exactly when the cycle ran a display instruction or it was set before. -/
theorem cycle_redrawPending (s : State) :
    ∃ t, cycle s = .next t ∧ (t.redrawPending = true ↔ AtDisplayInstr s ∨ s.redrawPending = true) := by
  obtain ⟨c, hf, hc⟩ | ⟨i, hf, hd, hc⟩ | ⟨e, hf, hd, hc⟩ := cycle_cases s
  · exact ⟨s, hc, by simp [atDisplayInstr_iff, hf]⟩
  · obtain ⟨t, ht, hr⟩ := exec_redrawPending i s.advancePc
    exact ⟨t, hc.trans ht, by simp [atDisplayInstr_iff, hf, hd, hr]⟩
  · exact ⟨_, hc, by simp [atDisplayInstr_iff, hf, hd]⟩

/-! The operations of the agents, and the step. -/

/-- When `redrawPending` is set after the operation (R29, R271, R290). -/
def RedrawPendingAfter (s : State) : AgentOp → Prop
  | .cycle => AtDisplayInstr s ∨ s.redrawPending = true
  | .clearRedraw | .initializeState => False
  | .timerTick | .loadProgram _ | .setKey _ _ | .clearBuzzer => s.redrawPending = true

theorem perform_redrawPending (op : AgentOp) (s : State) :
    ∃ t, perform op s = .next t ∧ (t.redrawPending = true ↔ RedrawPendingAfter s op) := by
  cases op with
  | cycle => exact cycle_redrawPending s
  | timerTick => exact ⟨_, perform_timerTick s, by simp [RedrawPendingAfter]⟩
  | _ => exact ⟨_, rfl, by simp [RedrawPendingAfter, State.reset]⟩

/-- Taking an operation off the schedule does not move the core. -/
theorem step_redrawPending (s : State) :
    ∃ t, step s = .next t ∧ (t.redrawPending = true ↔ RedrawPendingAfter s s.nextOp) := by
  obtain ⟨t, hstep, ht⟩ := perform_redrawPending s.nextOp s.dropOp
  refine ⟨t, hstep, ht.trans ?_⟩
  cases s.nextOp <;> rfl

/-- Settles O55, from what one step makes of `redrawPending`, operation by operation. -/
theorem redrawPendingSetAndCleared : Obligations.RedrawPendingSetAndCleared := by
  unfold Obligations.RedrawPendingSetAndCleared
  refine ⟨rfl, fun s => ?_⟩
  obtain ⟨t, hstep, ht⟩ := step_redrawPending s
  refine ⟨t, hstep, fun hop hdisplay => ?_, fun hs hset => ?_, fun hs hclear => ?_, fun hop => ?_⟩
  · exact ht.mpr (by rw [hop]; exact .inl hdisplay)
  · have hafter := ht.mp hset
    cases hop : s.nextOp with
    | cycle => exact ⟨rfl, (by simpa [hop, RedrawPendingAfter, hs] using hafter : AtDisplayInstr s)⟩
    | _ => simp [hop, RedrawPendingAfter, hs] at hafter
  · have hafter : ¬ RedrawPendingAfter s s.nextOp := fun h => by simp [ht.mpr h] at hclear
    cases hop : s.nextOp with
    | clearRedraw => exact .inl rfl
    | initializeState => exact .inr rfl
    | _ => simp [hop, RedrawPendingAfter, hs] at hafter
  · rcases hop with hop | hop <;> simpa [hop, RedrawPendingAfter] using ht

end Sys2Proof.Machine
end

section
/-! Control transfer (R140 to R149): what the words decode to, what a cycle at an instruction is, where a skip or a jump
leaves `PC`. -/

namespace Sys2Proof.Machine

open Sys2Proof.Spec

/-! Decoding a word: its fields select the instruction it was encoded from. -/

/-- `Instr.wf` refuses exactly the two words of family 0 that have a meaning of their own (R95, R96). -/
theorem sys_wf_iff (nnn : Addr) : (Instr.sys nnn).wf = true ↔ nnn ≠ 0x0E0#12 ∧ nnn ≠ 0x0EE#12 := by
  simp [Instr.wf]

/-- The decoder undoes the encoder: by the family, then within it by the low nibble, the low byte or the two words of
R95. -/
theorem decode_encode {i : Instr} (h : i.wf = true) : decode (encode i) = .ok i := by
  cases i with
  | cls | ret => rfl
  | sys nnn =>
    obtain ⟨hcls, hret⟩ := (sys_wf_iff nnn).mp h
    simp [encode, decode, decodeFamily0, hcls, hret]
  | ldVxVy | orVxVy | andVxVy | xorVxVy | addVxVy | sub | shr | subn | shl => simp [encode, decode, decodeFamily8]
  | skp | sknp => simp [encode, decode, decodeFamilyE]
  | ldVxDt | ldVxK | ldDtVx | ldStVx | addIVx | ldFVx | ldBVx | stV0Vx | ldV0Vx =>
    simp [encode, decode, decodeFamilyF]
  | _ => simp [encode, decode]

/-- Families 5 and 9 hold one instruction each, with low nibble 0 (R97, R148, R149). -/
theorem decode_encodeXYN_unknown {f n : BitVec 4} (x y : Reg) (hf : f = 0x5#4 ∨ f = 0x9#4) (hn : n ≠ 0x0#4) :
    decode (encodeXYN f x y n) = .error (.unknownOpcode (encodeXYN f x y n)) := by
  rcases hf with rfl | rfl <;> simp [decode, hn]

/-! The formats as numbers: each is the word of its fields, for a family given as a number (R92). -/

theorem wordNNN_eq_encodeNNN (f : BitVec 4) (nnn : Addr) : wordNNN f.toNat nnn = encodeNNN f nnn :=
  (encodeNNN_eq_ofNat f nnn).symm

theorem wordXNN_eq_encodeXNN (f : BitVec 4) (x : Reg) (nn : Byte) : wordXNN f.toNat x nn.toNat = encodeXNN f x nn :=
  (encodeXNN_eq_ofNat f x nn).symm

theorem wordXYN_eq_encodeXYN (f : BitVec 4) (x y : Reg) (n : BitVec 4) :
    wordXYN f.toNat x y n.toNat = encodeXYN f x y n :=
  (encodeXYN_eq_ofNat f x y n).symm

/-- A word that is the encoding of a well-formed instruction decodes to it. -/
theorem decode_of_eq_encode {w : Word} {i : Instr} (hw : w = encode i) (h : i.wf = true) : decode w = .ok i :=
  hw ▸ decode_encode h

/-- The unknown words of families 5 and 9, as numbers. -/
theorem decode_wordXYN_unknown (f : BitVec 4) (x y : Reg) (hf : f = 0x5#4 ∨ f = 0x9#4) {n : Nat} (h0 : 0 < n)
    (h16 : n < 16) : decode (wordXYN f.toNat x y n) = .error (.unknownOpcode (wordXYN f.toNat x y n)) := by
  have hnibble : (BitVec.ofNat 4 n).toNat = n := Nat.mod_eq_of_lt h16
  have hne : BitVec.ofNat 4 n ≠ 0x0#4 := fun h => by simp [h] at hnibble; omega
  have hword : wordXYN f.toNat x y n = encodeXYN f x y (BitVec.ofNat 4 n) := by
    rw [← wordXYN_eq_encodeXYN, hnibble]
  rw [hword]
  exact decode_encodeXYN_unknown x y hf hne

/-! The cycle at an instruction (R120 to R124). -/

/-- The pre-increment, as the statements write it (R122). -/
theorem State.advancePc_eq (s : State) : s.advancePc = { s with pc := BitVec.ofNat 16 (s.pc.toNat + 2) } := by
  have hpc : s.pc + 2 = BitVec.ofNat 16 (s.pc.toNat + 2) := BitVec.eq_of_toNat_eq (by simp)
  rw [State.advancePc, State.setPc, hpc]

/-- A cycle at instruction `i` is the execution of `i` past its two bytes. -/
theorem cycle_of_atInstr {s : State} {i : Instr} (h : AtInstr s i) : cycle s = exec i s.advancePc := by
  obtain ⟨hfault, hdecode⟩ := h
  simp [cycle, hfault, State.fetch_eq_fetchedWord, hdecode]

/-! Where `PC` goes. -/

/-- A jump target is zero-extended (R140 (b)). -/
@[simp] theorem target_toNat (nnn : Addr) : (target nnn).toNat = nnn.toNat :=
  BitVec.toNat_setWidth_of_le (by omega)

/-- The indexed target is the sum itself: 12 bits and 8 bits never reach 65536 (R145). -/
theorem target_add_zext16_toNat (nnn : Addr) (b : Byte) : (target nnn + zext16 b).toNat = nnn.toNat + b.toNat := by
  have hb : (zext16 b).toNat = b.toNat := BitVec.toNat_setWidth_of_le (by omega)
  have := nnn.isLt
  have := b.isLt
  rw [BitVec.toNat_add, target_toNat, hb]
  omega

/-- A jump overwrites the `PC` it is given, so that the pre-increment is lost (R143). -/
theorem exec_jp_advancePc (nnn : Addr) (s : State) : exec (.jp nnn) s.advancePc = .next (s.setPc (target nnn)) := rfl

/-- A skip adds 2 modulo 65536 (R140 (a)). -/
theorem State.skipIf_pc_toNat (s : State) (c : Bool) :
    (s.skipIf c).pc.toNat = if c = true then (s.pc.toNat + 2) % 65536 else s.pc.toNat := by
  rw [s.skipIf_pc]
  split <;> simp

/-- The skip on equal bytes (R146, R148). -/
theorem State.skipIf_beq_pc_toNat (s : State) (a b : Byte) :
    (s.skipIf (a == b)).pc.toNat = if a = b then (s.pc.toNat + 2) % 65536 else s.pc.toNat := by
  simp only [s.skipIf_pc_toNat, beq_iff_eq]

/-- The skip on different bytes (R147, R149). -/
theorem State.skipIf_bne_pc_toNat (s : State) (a b : Byte) :
    (s.skipIf (a != b)).pc.toNat = if a = b then s.pc.toNat else (s.pc.toNat + 2) % 65536 := by
  simp only [s.skipIf_pc_toNat, bne_iff_ne, ite_not]

/-! The statements. -/

/-- Settles O13: the word decodes, and a cycle is the pre-increment alone. -/
theorem sysIsANoOp : Obligations.SysIsANoOp := by
  unfold Obligations.SysIsANoOp
  intro nnn s hcls hret
  have hwf : (Instr.sys nnn).wf = true := (sys_wf_iff nnn).mpr ⟨hcls, hret⟩
  refine ⟨decode_of_eq_encode (wordNNN_eq_encodeNNN 0x0#4 nnn) hwf, rfl, fun hat => ?_⟩
  rw [cycle_of_atInstr hat, s.advancePc_eq]
  rfl

/-- Settles O15: the jump writes `PC` alone, and a jump to its own address writes the value `PC` had. -/
theorem jumpSetsPc : Obligations.JumpSetsPc := by
  unfold Obligations.JumpSetsPc
  intro nnn s
  refine ⟨decode_of_eq_encode (wordNNN_eq_encodeNNN 0x1#4 nnn) rfl,
    ⟨_, rfl, target_toNat nnn, rfl⟩, fun hat hself => ?_⟩
  have hpc : target nnn = s.pc := BitVec.eq_of_toNat_eq ((target_toNat nnn).trans hself)
  rw [cycle_of_atInstr hat, exec_jp_advancePc, hpc]
  rfl

/-- Settles O18: the target is the sum, which fits in 16 bits. -/
theorem indexedJumpAddsV0 : Obligations.IndexedJumpAddsV0 := by
  unfold Obligations.IndexedJumpAddsV0
  intro nnn s
  exact ⟨decode_of_eq_encode (wordNNN_eq_encodeNNN 0xB#4 nnn) rfl,
    _, rfl, target_add_zext16_toNat nnn (s.reg 0), rfl⟩

/-- Settles O19, from the skips on equal and on different bytes. -/
theorem immediateSkips : Obligations.ImmediateSkips := by
  unfold Obligations.ImmediateSkips
  intro x nn s
  exact ⟨decode_of_eq_encode (wordXNN_eq_encodeXNN 0x3#4 x nn) rfl,
    decode_of_eq_encode (wordXNN_eq_encodeXNN 0x4#4 x nn) rfl,
    _, _, rfl, rfl, s.skipIf_only_pc _, s.skipIf_only_pc _,
    s.skipIf_beq_pc_toNat (s.reg x) nn, s.skipIf_bne_pc_toNat (s.reg x) nn⟩

/-- Settles O20, from the skips on equal and on different bytes; the other low nibbles select nothing. -/
theorem registerSkips : Obligations.RegisterSkips := by
  unfold Obligations.RegisterSkips
  intro x y s
  exact ⟨decode_of_eq_encode (wordXYN_eq_encodeXYN 0x5#4 x y 0x0#4) rfl,
    decode_of_eq_encode (wordXYN_eq_encodeXYN 0x9#4 x y 0x0#4) rfl,
    fun n h0 h16 => ⟨decode_wordXYN_unknown 0x5#4 x y (.inl rfl) h0 h16,
      decode_wordXYN_unknown 0x9#4 x y (.inr rfl) h0 h16⟩,
    _, _, rfl, rfl, s.skipIf_only_pc _, s.skipIf_only_pc _,
    s.skipIf_beq_pc_toNat (s.reg x) (s.reg y), s.skipIf_bne_pc_toNat (s.reg x) (s.reg y)⟩

end Sys2Proof.Machine
end

section
/-! Register writes without a flag (R161 to R166): the instructions that write `VX` and nothing else. -/

namespace Sys2Proof.Machine

open Sys2Proof.Spec

/-- Writing one register leaves every other register and everything that is no register. -/
theorem State.setReg_onlyRegs (s : State) (r : Reg) (b : Byte) : OnlyRegs [r] s (s.setReg r b) :=
  ⟨s.setReg_only_v r b, fun _ hq => s.setReg_reg_of_ne b (List.ne_of_not_mem_cons hq)⟩

/-- Settles O21: the instruction is one register write, of `NN`. -/
theorem loadImmediate : Obligations.LoadImmediate := by
  unfold Obligations.LoadImmediate
  intro x nn s
  exact ⟨decode_of_eq_encode (wordXNN_eq_encodeXNN 0x6#4 x nn) rfl,
    _, rfl, s.setReg_reg_self x nn, s.setReg_onlyRegs x nn⟩

/-- Settles O22: the byte sum is the sum modulo 256, and it is the only register written. -/
theorem addImmediateWithoutFlag : Obligations.AddImmediateWithoutFlag := by
  unfold Obligations.AddImmediateWithoutFlag
  intro x nn s
  refine ⟨decode_of_eq_encode (wordXNN_eq_encodeXNN 0x7#4 x nn) rfl,
    _, rfl, ?_, s.setReg_onlyRegs x (s.reg x + nn)⟩
  rw [State.setReg_reg_self, BitVec.toNat_add]

/-- Settles O23: the instruction is one register write, of `VY`. -/
theorem copyRegister : Obligations.CopyRegister := by
  unfold Obligations.CopyRegister
  intro x y s
  exact ⟨decode_of_eq_encode (wordXYN_eq_encodeXYN 0x8#4 x y 0x0#4) rfl,
    _, rfl, s.setReg_reg_self x (s.reg y), s.setReg_onlyRegs x (s.reg y)⟩

/-- Settles O24: each instruction is one register write, and the byte operations work bit by bit. -/
theorem bitwiseLogic : Obligations.BitwiseLogic := by
  unfold Obligations.BitwiseLogic
  intro x y s
  refine ⟨decode_of_eq_encode (wordXYN_eq_encodeXYN 0x8#4 x y 0x1#4) rfl,
    decode_of_eq_encode (wordXYN_eq_encodeXYN 0x8#4 x y 0x2#4) rfl,
    decode_of_eq_encode (wordXYN_eq_encodeXYN 0x8#4 x y 0x3#4) rfl,
    _, _, _, rfl, rfl, rfl,
    s.setReg_onlyRegs x _, s.setReg_onlyRegs x _, s.setReg_onlyRegs x _, fun k _ => ⟨?_, ?_, ?_⟩⟩
  · rw [State.setReg_reg_self, BitVec.getLsbD_or]
  · rw [State.setReg_reg_self, BitVec.getLsbD_and]
  · rw [State.setReg_reg_self, BitVec.getLsbD_xor]

end Sys2Proof.Machine
end

section
/-! The index register and the memory it addresses (R191, R193, R194): what the three instructions put in `I` and in
memory. -/

namespace Sys2Proof.Machine

open Sys2Proof.Spec

/-! Values of `I`, as numbers. -/

/-- Zero-extension keeps the value of a byte (R93). -/
@[simp] theorem zext16_toNat (b : Byte) : (zext16 b).toNat = b.toNat := BitVec.toNat_setWidth_of_le (by omega)

/-- The product is exact: 255 * 5 fits in 16 bits (R193). -/
theorem glyphAddress_toNat (b : Byte) : (glyphAddress b).toNat = b.toNat * 5 := by
  have := b.isLt
  have hfive : (BitVec.ofNat 16 Config.glyphBytes).toNat = 5 := rfl
  rw [glyphAddress, BitVec.toNat_mul, zext16_toNat, hfive]
  omega

/-! Bytes stored from `I` upward. -/

/-- The address of index `k`, as the statements write it (R61). -/
theorem State.indexed_eq_ofNat (s : State) (k : Nat) : s.indexed k = BitVec.ofNat 12 (s.i.toNat + k) :=
  BitVec.eq_of_toNat_eq (by rw [State.indexed_toNat, BitVec.toNat_ofNat])

/-- A block of at most 4096 bytes stored from `I` reads back byte by byte (R70, R190). -/
theorem State.storeFrom_zero_readMem_ofNat {s : State} (h : s.memory.wf) {bs : List Byte} (hlen : bs.length ≤ 4096)
    (j : Nat) (hj : j < bs.length) : (s.storeFrom 0 bs).readMem (BitVec.ofNat 12 (s.i.toNat + j)) = bs[j] := by
  have hread := State.storeFrom_readMem bs 0 j hj h hlen
  rwa [Nat.zero_add, State.indexed_eq_ofNat] at hread

/-- An address outside the block reads as before (R190). -/
theorem State.storeFrom_zero_readMem_of_ne {s : State} (h : s.memory.wf) (bs : List Byte) {a : Addr}
    (ha : ∀ k, k < bs.length → a ≠ s.indexed k) : (s.storeFrom 0 bs).readMem a = s.readMem a :=
  State.storeFrom_readMem_of_ne bs 0 h fun j hj => by rw [Nat.zero_add]; exact ha j hj

@[simp] theorem digits_length (b : Byte) : (digits b).length = 3 := rfl

/-- No decimal digit is lost when it is put in a byte (R194). -/
theorem digits_map_toNat (b : Byte) :
    (digits b).map BitVec.toNat = [b.toNat / 100, b.toNat / 10 % 10, b.toNat % 10] := by
  have fits (n : Nat) (hn : n < 256) : (BitVec.ofNat 8 n).toNat = n := Nat.mod_eq_of_lt hn
  have := b.isLt
  simp only [digits, List.map_cons, List.map_nil]
  rw [fits _ (by omega), fits _ (by omega), fits _ (by omega)]

/-- FX33 leaves digit `j` of `VX` at `I + j` (R194). -/
theorem State.storeFrom_digits_toNat {s : State} (h : s.memory.wf) (b : Byte) (j : Nat) (hj : j < 3) :
    ((s.storeFrom 0 (digits b)).readMem (BitVec.ofNat 12 (s.i.toNat + j))).toNat =
      [b.toNat / 100, b.toNat / 10 % 10, b.toNat % 10][j] := by
  rw [State.storeFrom_zero_readMem_ofNat h (bs := digits b) (by simp) j (by simpa using hj)]
  simp only [← digits_map_toNat, List.getElem_map]

/-! The statements. -/

/-- Settles O31: the word decodes, and `I` takes the zero-extended address. -/
theorem loadIndex : Obligations.LoadIndex := by
  unfold Obligations.LoadIndex
  intro nnn s
  exact ⟨decode_of_eq_encode (wordNNN_eq_encodeNNN 0xA#4 nnn) rfl, _, rfl, target_toNat nnn, rfl⟩

/-- Settles O33: the word decodes, and `I` takes the exact product. (`glyphAddress` is the model's own name.) -/
theorem loadGlyphAddress : Obligations.GlyphAddress := by
  unfold Obligations.GlyphAddress
  intro x s
  exact ⟨decode_of_eq_encode (wordXNN_eq_encodeXNN 0xF#4 x 0x29#8) rfl, _, rfl, glyphAddress_toNat (s.reg x), rfl⟩

/-- Settles O34: the instruction stores the three digits as one block from `I`, which reads back digit by digit. -/
theorem decimalDigitsStored : Obligations.DecimalDigitsStored := by
  unfold Obligations.DecimalDigitsStored
  intro x s hwf
  have hdigit := State.storeFrom_digits_toNat hwf (s.reg x)
  exact ⟨decode_of_eq_encode (wordXNN_eq_encodeXNN 0xF#4 x 0x33#8) rfl, _, rfl,
    hdigit 0 (by omega), hdigit 1 (by omega), hdigit 2 (by omega),
    fun a ha => State.storeFrom_zero_readMem_of_ne hwf (digits (s.reg x)) ha,
    State.storeFrom_only_memory (digits (s.reg x)) s 0⟩

end Sys2Proof.Machine
end

section
/-! The display (R211): what 00E0 leaves of it. -/

namespace Sys2Proof.Machine

/-- Showing a display touches only the display and `redrawPending` (R29). -/
theorem State.showDisplay_only_display (s : State) (d : Display) :
    s.showDisplay d =
      { s with display := (s.showDisplay d).display, redrawPending := (s.showDisplay d).redrawPending } := rfl

/-- The cells the host reads are those of the display shown (R269). -/
@[simp] theorem State.showDisplay_cell (s : State) (d : Display) (x : Fin 64) (y : Fin 32) :
    (s.showDisplay d).cell x y = displayCell d x y := rfl

/-- Settles O38: the word decodes, and the instruction shows the blank display, whose cells are all 0. -/
theorem clearScreen : Obligations.ClearScreen := by
  unfold Obligations.ClearScreen
  intro s
  have hcell (x : Fin 64) (y : Fin 32) : (s.showDisplay blankDisplay).cell x y = false := by
    rw [State.showDisplay_cell, displayCell_blank]
  exact ⟨decode_encode (i := .cls) rfl, _, rfl, hcell, s.showDisplay_redrawPending blankDisplay,
    s.showDisplay_only_display blankDisplay⟩

end Sys2Proof.Machine
end

section
/-! The stack faults (R250, R251): which instructions raise them, and when. -/

namespace Sys2Proof.Machine

open Sys2Proof.Spec

/-! What the shared operations of the instructions that use no stack leave `fault` as. -/

@[simp] theorem State.skipIf_fault (s : State) (c : Bool) : (s.skipIf c).fault = s.fault := by
  rw [s.skipIf_only_pc c]

@[simp] theorem State.storeFrom_fault (s : State) (k : Nat) (bs : List Byte) :
    (s.storeFrom k bs).fault = s.fault := by
  rw [State.storeFrom_only_memory bs s k]

@[simp] theorem State.loadRegs_fault (s : State) (rs : List Reg) : (s.loadRegs rs).fault = s.fault := by
  rw [State.loadRegs_only_v rs s]

/-- Every instruction but 2NNN and 00EE completes and keeps `fault`. -/
theorem exec_fault_of_not_writesSp {i : Instr} (h : writesSp i = false) (s : State) :
    ∃ t, exec i s = .next t ∧ t.fault = s.fault := by
  cases i with
  | ret | call => cases h
  | seVxNn | sneVxNn | seVxVy | sneVxVy | skp | sknp => exact ⟨_, rfl, s.skipIf_fault _⟩
  | ldBVx | stV0Vx => exact ⟨_, rfl, s.storeFrom_fault 0 _⟩
  | ldV0Vx x => exact ⟨_, rfl, s.loadRegs_fault (regsTo x)⟩
  | ldVxK x => obtain ⟨_, h⟩ | ⟨_, _, _, h⟩ := execLdVxK_cases x s <;> exact ⟨_, h, rfl⟩
  | _ => exact ⟨_, rfl, rfl⟩

/-- The three ways an instruction can end: a 2NNN on a full stack and a 00EE on an empty one are fault entry alone, and
everything else keeps `fault`. -/
theorem exec_stackFault_cases (i : Instr) (s : State) :
    ((∃ nnn, i = .call nnn) ∧ s.sp.val = 16 ∧ exec i s = .next (s.raise .stackOverflow)) ∨
    (i = .ret ∧ s.sp.val = 0 ∧ exec i s = .next (s.raise .stackUnderflow)) ∨
    (¬ ((∃ nnn, i = .call nnn) ∧ s.sp.val = 16) ∧ ¬ (i = .ret ∧ s.sp.val = 0) ∧
      ∃ t, exec i s = .next t ∧ t.fault = s.fault) := by
  cases i with
  | call nnn =>
    obtain ⟨hroom, h⟩ | ⟨hfull, h⟩ := s.pushPcThen_cases (fun t => t.setPc (target nnn))
    · exact .inr (.inr ⟨fun hf => hroom.ne hf.2, nofun, _, rfl, by rw [h, State.setPc_fault]⟩)
    · exact .inl ⟨⟨nnn, rfl⟩, hfull, congrArg _ h⟩
  | ret =>
    obtain ⟨hsome, h⟩ | ⟨hempty, h⟩ := s.popPc_cases
    · exact .inr (.inr ⟨nofun, fun he => hsome.ne' he.2, _, rfl, by rw [h]⟩)
    · exact .inr (.inl ⟨rfl, hempty, congrArg _ h⟩)
  | _ => exact .inr (.inr ⟨nofun, nofun, exec_fault_of_not_writesSp rfl s⟩)

/-- Settles O10: on a running machine the first two of the three cases are the two faults, each fault entry alone, and
in the third `fault` stays clear. -/
theorem stackFaultsExactly : Obligations.StackFaultsExactly := by
  unfold Obligations.StackFaultsExactly
  intro i s t hrunning hexec
  obtain ⟨hcall, hfull, h⟩ | ⟨rfl, hempty, h⟩ | ⟨hcall, hret, u, h, hfault⟩ := exec_stackFault_cases i s
  · obtain ⟨nnn, rfl⟩ := hcall
    cases hexec.symm.trans h
    simp [hfull]
  · cases hexec.symm.trans h
    simp [hempty]
  · cases hexec.symm.trans h
    have hclear : t.fault = none := hfault.trans hrunning
    exact ⟨iff_of_false (by simp [hclear]) hcall, iff_of_false (by simp [hclear]) hret, fun hf => absurd hclear hf⟩

end Sys2Proof.Machine
end

section
/-! The decoder against the encoder and against the table of unknown opcodes (R94 to R100). -/

namespace Sys2Proof.Machine

open Sys2Proof.Spec

/-! The unknown opcodes, by the fields the decoder selects on. -/

theorem fieldFamily_toNat (w : Word) : (fieldFamily w).toNat = w.toNat / 0x1000 := by
  have := w.isLt
  simp [fieldFamily, Nat.shiftRight_eq_div_pow]
  omega

theorem fieldN_toNat (w : Word) : (fieldN w).toNat = w.toNat % 0x10 := by
  simp [fieldN]

theorem fieldNN_toNat (w : Word) : (fieldNN w).toNat = w.toNat % 0x100 := by
  simp [fieldNN]

/-- The table of R97 over the fields of a word. -/
theorem unknown_iff (w : Word) : Unknown w ↔
    (fieldFamily w = 0x5#4 ∧ fieldN w ≠ 0x0#4) ∨
    (fieldFamily w = 0x8#4 ∧ fieldN w ∈ [0x8#4, 0x9#4, 0xA#4, 0xB#4, 0xC#4, 0xD#4, 0xF#4]) ∨
    (fieldFamily w = 0x9#4 ∧ fieldN w ≠ 0x0#4) ∨
    (fieldFamily w = 0xE#4 ∧ fieldNN w ∉ [0x9E#8, 0xA1#8]) ∨
    (fieldFamily w = 0xF#4 ∧
      fieldNN w ∉ [0x07#8, 0x0A#8, 0x15#8, 0x18#8, 0x1E#8, 0x29#8, 0x33#8, 0x55#8, 0x65#8]) := by
  simp only [Unknown, ← fieldFamily_toNat, ← fieldN_toNat, ← fieldNN_toNat, ← BitVec.toNat_inj, ne_eq, List.mem_cons]
  simp

/-- No instruction has an unknown opcode for its word: its fields are those of its row. -/
theorem not_unknown_encode (i : Instr) : ¬ Unknown (encode i) := by
  rw [unknown_iff]
  cases i with
  | cls | ret => decide
  | _ => simp [encode]

/-- What the decoder makes of a word: the well-formed instruction the word encodes, or a refusal of an unknown
opcode. -/
def DecodesRightly (w : Word) (r : Except DecodeError Instr) : Prop :=
  (∃ i, r = .ok i ∧ encode i = w ∧ i.wf = true) ∨ (r = .error (.unknownOpcode w) ∧ Unknown w)

theorem DecodesRightly.instr {w : Word} {i : Instr} (h : encode i = w) (hwf : i.wf = true) :
    DecodesRightly w (.ok i) := .inl ⟨i, rfl, h, hwf⟩

theorem DecodesRightly.unknown {w : Word} (h : Unknown w) : DecodesRightly w (.error (.unknownOpcode w)) :=
  .inr ⟨rfl, h⟩

/-! The formats of R92: a word with the family of the row is the encoding of its own fields. -/

theorem encodeNNN_of_family {w : Word} {f : BitVec 4} (h : fieldFamily w = f) : encodeNNN f (fieldNNN w) = w :=
  h ▸ encodeNNN_fields w

theorem encodeXNN_of_family {w : Word} {f : BitVec 4} (h : fieldFamily w = f) {nn : Byte} (hnn : fieldNN w = nn) :
    encodeXNN f (fieldX w) nn = w := h ▸ hnn ▸ encodeXNN_fields w

theorem encodeXYN_of_family {w : Word} {f : BitVec 4} (h : fieldFamily w = f) {n : BitVec 4} (hn : fieldN w = n) :
    encodeXYN f (fieldX w) (fieldY w) n = w := h ▸ hn ▸ encodeXYN_fields w

theorem decodeFamily0_rightly {w : Word} (h : fieldFamily w = 0x0#4) : DecodesRightly w (.ok (decodeFamily0 w)) := by
  have hword := encodeNNN_of_family h
  unfold decodeFamily0
  split
  · next hcls => exact .instr (by rw [hcls] at hword; exact hword) rfl
  · next hcls =>
    split
    · next hret => exact .instr (by rw [hret] at hword; exact hword) rfl
    · next hret => exact .instr hword ((sys_wf_iff _).mpr ⟨hcls, hret⟩)

theorem decodeFamily8_rightly {w : Word} (h : fieldFamily w = 0x8#4) : DecodesRightly w (decodeFamily8 w) := by
  unfold decodeFamily8
  split
  case h_10 =>
    refine .unknown ((unknown_iff w).mpr (.inr (.inl ⟨h, ?_⟩)))
    generalize fieldN w = n at *
    revert n
    decide
  all_goals exact .instr (encodeXYN_of_family h ‹_›) rfl

theorem decodeFamilyE_rightly {w : Word} (h : fieldFamily w = 0xE#4) : DecodesRightly w (decodeFamilyE w) := by
  unfold decodeFamilyE
  split
  case h_3 hskp hsknp =>
    have hnn : fieldNN w ∉ [0x9E#8, 0xA1#8] := by simpa using ⟨hskp, hsknp⟩
    exact .unknown ((unknown_iff w).mpr (.inr (.inr (.inr (.inl ⟨h, hnn⟩)))))
  all_goals exact .instr (encodeXNN_of_family h ‹_›) rfl

theorem decodeFamilyF_rightly {w : Word} (h : fieldFamily w = 0xF#4) : DecodesRightly w (decodeFamilyF w) := by
  unfold decodeFamilyF
  split
  case h_10 h07 h0A h15 h18 h1E h29 h33 h55 h65 =>
    have hnn : fieldNN w ∉ [0x07#8, 0x0A#8, 0x15#8, 0x18#8, 0x1E#8, 0x29#8, 0x33#8, 0x55#8, 0x65#8] := by
      simpa using ⟨h07, h0A, h15, h18, h1E, h29, h33, h55, h65⟩
    exact .unknown ((unknown_iff w).mpr (.inr (.inr (.inr (.inr ⟨h, hnn⟩)))))
  all_goals exact .instr (encodeXNN_of_family h ‹_›) rfl

/-- Every word, by its family (R95, R97). The cases are the families in order, so case `h_1` is family 0; there is no
seventeenth. -/
theorem decode_rightly (w : Word) : DecodesRightly w (decode w) := by
  unfold decode
  split
  case h_1 h => exact decodeFamily0_rightly h
  case h_9 h => exact decodeFamily8_rightly h
  case h_15 h => exact decodeFamilyE_rightly h
  case h_16 h => exact decodeFamilyF_rightly h
  case h_6 h =>
    split
    · next hn => exact .instr (encodeXYN_of_family h hn) rfl
    · next hn => exact .unknown ((unknown_iff w).mpr (.inl ⟨h, hn⟩))
  case h_10 h =>
    split
    · next hn => exact .instr (encodeXYN_of_family h hn) rfl
    · next hn => exact .unknown ((unknown_iff w).mpr (.inr (.inr (.inl ⟨h, hn⟩))))
  case h_14 h => exact .instr (encodeXYN_of_family h rfl) rfl
  case h_2 h | h_3 h | h_11 h | h_12 h => exact .instr (encodeNNN_of_family h) rfl
  case h_4 h | h_5 h | h_7 h | h_8 h | h_13 h => exact .instr (encodeXNN_of_family h rfl) rfl
  case h_17 =>
    exfalso
    generalize fieldFamily w = f at *
    revert f
    decide

/-- Settles O1: the decoder undoes the encoder, row by row. -/
theorem decodeOfEncodeIsIdentity : Obligations.DecodeOfEncodeIsIdentity := fun _ => decode_encode

/-- Settles O2: of the two things the decoder makes of a word, an instruction is the first. -/
theorem encodeOfDecodeIsIdentity : Obligations.EncodeOfDecodeIsIdentity := by
  unfold Obligations.EncodeOfDecodeIsIdentity
  intro w i hi
  obtain ⟨j, hj, hencode, hwf⟩ | ⟨he, _⟩ := decode_rightly w
  · cases hi.symm.trans hj
    exact ⟨hencode, hwf⟩
  · cases hi.symm.trans he

/-- Settles O3: a word that decodes is the word of an instruction, which is never unknown. -/
theorem unknownOpcodesAreExactlyTheTable : Obligations.UnknownOpcodesAreExactlyTheTable := by
  unfold Obligations.UnknownOpcodesAreExactlyTheTable
  intro w
  obtain ⟨i, hi, rfl, _⟩ | ⟨he, hunknown⟩ := decode_rightly w
  · exact ⟨fun h => absurd h (not_unknown_encode i), fun _ => ⟨i, hi⟩⟩
  · exact ⟨fun _ => he, fun h => absurd hunknown h⟩

/-- Settles O4: each word is the encoding of its instruction, written out; the last is in the table of R97. -/
theorem wordsOfTheTableDecode : Obligations.WordsOfTheTableDecode := by
  unfold Obligations.WordsOfTheTableDecode
  decide

end Sys2Proof.Machine
end

section
/-! The access matrix (R33): what an instruction leaves alone, and that none reads the sound timer or the host's
signals. -/

namespace Sys2Proof.Machine

open Sys2Proof.Spec

/-! What the shared operations touch. -/

theorem State.popPc_only_sp_pc_fault (s : State) :
    s.popPc = { s with sp := s.popPc.sp, pc := s.popPc.pc, fault := s.popPc.fault } := by
  obtain ⟨_, h⟩ | ⟨_, h⟩ := s.popPc_cases
  · rw [h]
  · rw [h]
    rfl

theorem State.pushPcThen_setPc_only_stack_sp_pc_fault (s : State) (w : Word) :
    s.pushPcThen (fun t => t.setPc w) = { s with
      stack := (s.pushPcThen (fun t => t.setPc w)).stack
      sp := (s.pushPcThen (fun t => t.setPc w)).sp
      pc := (s.pushPcThen (fun t => t.setPc w)).pc
      fault := (s.pushPcThen (fun t => t.setPc w)).fault } := by
  obtain ⟨_, h⟩ | ⟨_, h⟩ := s.pushPcThen_cases (fun t => t.setPc w) <;> rw [h] <;> rfl

/-- May write a general register. -/
def writesRegs : Instr → Bool
  | .cls | .ret | .sys _ | .jp _ | .call _ | .seVxNn _ _ | .sneVxNn _ _ | .seVxVy _ _ | .sneVxVy _ _ => false
  | .ldINnn _ | .jpV0 _ | .skp _ | .sknp _ | .ldDtVx _ | .ldStVx _ | .addIVx _ | .ldFVx _ | .ldBVx _ => false
  | .stV0Vx _ => false
  | _ => true

/-- Stores to memory. -/
def writesMemory : Instr → Bool
  | .ldBVx _ | .stV0Vx _ => true
  | _ => false

/-- May use up a draw (log 3, log 4). -/
def usesDraw : Instr → Bool
  | .rnd _ _ | .ldVxK _ => true
  | _ => false

/-- `t` with every element taken back to `s` that the row of `i` does not list (R33). -/
def matrixFrame (i : Instr) (s t : State) : State :=
  { s with
    memory := bif writesMemory i then t.memory else s.memory
    v := bif writesRegs i then t.v else s.v
    i := bif writesI i then t.i else s.i
    pc := bif writesPc i then t.pc else s.pc
    stack := bif writesStack i then t.stack else s.stack
    sp := bif writesSp i then t.sp else s.sp
    fault := bif writesSp i then t.fault else s.fault
    dt := bif writesDt i then t.dt else s.dt
    st := bif writesSt i then t.st else s.st
    display := bif writesDisplay i then t.display else s.display
    redrawPending := bif writesDisplay i then t.redrawPending else s.redrawPending
    draws := bif usesDraw i then t.draws else s.draws }

/-- Every instruction completes, and what it leaves is within its row. -/
theorem exec_matrixFrame (i : Instr) (s : State) : ∃ t, exec i s = .next t ∧ t = matrixFrame i s t := by
  cases i with
  | ret => exact ⟨_, rfl, s.popPc_only_sp_pc_fault⟩
  | call nnn => exact ⟨_, rfl, s.pushPcThen_setPc_only_stack_sp_pc_fault (target nnn)⟩
  | seVxNn | sneVxNn | seVxVy | sneVxVy | skp | sknp => exact ⟨_, rfl, s.skipIf_only_pc _⟩
  | ldBVx | stV0Vx => exact ⟨_, rfl, State.storeFrom_only_memory _ s 0⟩
  | ldV0Vx x => exact ⟨_, rfl, State.loadRegs_only_v (regsTo x) s⟩
  | ldVxK x => obtain ⟨_, h⟩ | ⟨_, _, _, h⟩ := execLdVxK_cases x s <;> exact ⟨_, h, rfl⟩
  | _ => exact ⟨_, rfl, rfl⟩

theorem exec_eq_matrixFrame {i : Instr} {s t : State} (h : exec i s = .next t) : t = matrixFrame i s t := by
  obtain ⟨u, hu, hframe⟩ := exec_matrixFrame i s
  cases h.symm.trans hu
  exact hframe

/-- The registers outside the row keep their value. -/
theorem exec_reg_of_not_mem {i : Instr} {s t : State} (h : exec i s = .next t) {r : Reg}
    (hr : r ∉ regsWritten i) : t.reg r = s.reg r := by
  cases i with
  | ldV0Vx x =>
    cases h
    rw [State.loadRegs_reg, if_neg]
    simpa [regsWritten, mem_regsTo] using hr
  | ldVxK x =>
    have hne : r ≠ x := by simpa [regsWritten] using hr
    obtain ⟨_, hk⟩ | ⟨k, _, _, hk⟩ := execLdVxK_cases x s
    · cases h.symm.trans hk
      rfl
    · cases h.symm.trans hk
      exact s.setReg_reg_of_ne (keyByte k) hne
  | ldVxNn x | addVxNn x | ldVxDt x | ldVxVy x | orVxVy x | andVxVy x | xorVxVy x =>
    cases h
    exact s.setReg_reg_of_ne _ (by simpa [regsWritten] using hr)
  | rnd x nn =>
    cases h
    exact s.setReg_reg_of_ne (s.draw8 &&& nn) (by simpa [regsWritten] using hr)
  | addVxVy x | sub x | subn x | shr x | shl x =>
    obtain ⟨hF, hx⟩ : r ≠ regF ∧ r ≠ x := by simpa [regsWritten] using hr
    cases h
    exact (State.setReg_reg_of_ne _ _ hx).trans (s.setReg_reg_of_ne _ hF)
  | drw x y n =>
    cases h
    exact s.setReg_reg_of_ne _ (by simpa [regsWritten] using hr)
  | _ =>
    rw [exec_eq_matrixFrame h]
    rfl

/-- The bytes outside the row keep their value. -/
theorem exec_readMem_of_not_mem {i : Instr} {s t : State} (h : exec i s = .next t) (hwf : s.memory.wf) {a : Addr}
    (ha : a ∉ addressesWritten s i) : t.readMem a = s.readMem a := by
  cases i with
  | ldBVx x =>
    cases h
    obtain ⟨h0, h1, h2⟩ : a ≠ s.indexed 0 ∧ a ≠ s.indexed 1 ∧ a ≠ s.indexed 2 := by simpa [addressesWritten] using ha
    refine State.storeFrom_zero_readMem_of_ne hwf (digits (s.reg x)) fun k hk => ?_
    match k, hk with
    | 0, _ => exact h0
    | 1, _ => exact h1
    | 2, _ => exact h2
  | stV0Vx x =>
    cases h
    refine State.storeFrom_zero_readMem_of_ne hwf ((regsTo x).map s.reg) fun k hk e => ha ?_
    rw [regsTo_map_length] at hk
    exact List.mem_map.mpr ⟨k, List.mem_range.mpr hk, e.symm⟩
  | _ =>
    rw [exec_eq_matrixFrame h]
    rfl

/-- Settles O53: the registers and the bytes one by one, and every other element from the frame of the row. -/
theorem writesOnlyWhatTheMatrixLists : Obligations.WritesOnlyWhatTheMatrixLists := by
  unfold Obligations.WritesOnlyWhatTheMatrixLists
  intro i s t hwf h
  refine ⟨fun r hr => exec_reg_of_not_mem h hr, fun a ha => exec_readMem_of_not_mem h hwf ha, ?_⟩
  rw [exec_eq_matrixFrame h]
  simp +contextual [matrixFrame]

/-! What the instructions read: `ST`, `redrawPending` and `buzzerRequested` are not among it. -/

/-- The state with other values in the sound timer and the two signals. -/
def State.withSignals (s : State) (b : Byte) (redraw buzzer : Bool) : State :=
  { s with st := b, redrawPending := redraw, buzzerRequested := buzzer }

theorem State.skipIf_withSignals (s : State) (c : Bool) (b : Byte) (redraw buzzer : Bool) :
    (s.withSignals b redraw buzzer).skipIf c = (s.skipIf c).withSignals b redraw buzzer := by
  cases c <;> rfl

theorem State.popPc_withSignals (s : State) (b : Byte) (redraw buzzer : Bool) :
    (s.withSignals b redraw buzzer).popPc = s.popPc.withSignals b redraw buzzer := by
  unfold State.popPc
  rw [apply_dite (State.withSignals · b redraw buzzer)]
  rfl

theorem State.pushPcThen_setPc_withSignals (s : State) (w : Word) (b : Byte) (redraw buzzer : Bool) :
    (s.withSignals b redraw buzzer).pushPcThen (fun t => t.setPc w) =
      (s.pushPcThen (fun t => t.setPc w)).withSignals b redraw buzzer := by
  unfold State.pushPcThen
  rw [apply_dite (State.withSignals · b redraw buzzer)]
  rfl

theorem State.storeFrom_withSignals (b : Byte) (redraw buzzer : Bool) : ∀ (bs : List Byte) (s : State) (k : Nat),
    (s.withSignals b redraw buzzer).storeFrom k bs = (s.storeFrom k bs).withSignals b redraw buzzer
  | [], _, _ => rfl
  | v :: bs, s, k => storeFrom_withSignals b redraw buzzer bs (s.writeMem (s.indexed k) v) (k + 1)

theorem State.loadRegs_withSignals (b : Byte) (redraw buzzer : Bool) : ∀ (rs : List Reg) (s : State),
    (s.withSignals b redraw buzzer).loadRegs rs = (s.loadRegs rs).withSignals b redraw buzzer
  | [], _ => rfl
  | r :: rs, s => loadRegs_withSignals b redraw buzzer rs (s.setReg r (s.readMem (s.indexed r.val)))

theorem execLdVxK_withSignals (x : Reg) (s : State) (b : Byte) (redraw buzzer : Bool) : ∃ t,
    execLdVxK x s = .next t ∧
      execLdVxK x (s.withSignals b redraw buzzer) = .next (t.withSignals b redraw buzzer) := by
  have hkeys : (s.withSignals b redraw buzzer).keysDown = s.keysDown := rfl
  unfold execLdVxK
  rw [hkeys]
  split <;> exact ⟨_, rfl, rfl⟩

/-- An instruction does alike with other values in the three elements: it writes what it would have written, or leaves
them at those values. -/
theorem exec_withSignals (i : Instr) (s : State) (b : Byte) (redraw buzzer : Bool) : ∃ t, exec i s = .next t ∧
    exec i (s.withSignals b redraw buzzer) = .next (t.withSignals (bif writesSt i then t.st else b)
      (bif writesDisplay i then t.redrawPending else redraw) buzzer) := by
  cases i with
  | ret => exact ⟨_, rfl, congrArg _ (s.popPc_withSignals b redraw buzzer)⟩
  | call nnn => exact ⟨_, rfl, congrArg _ (s.pushPcThen_setPc_withSignals (target nnn) b redraw buzzer)⟩
  | seVxNn | sneVxNn | seVxVy | sneVxVy | skp | sknp =>
    exact ⟨_, rfl, congrArg _ (s.skipIf_withSignals _ b redraw buzzer)⟩
  | ldBVx | stV0Vx => exact ⟨_, rfl, congrArg _ (State.storeFrom_withSignals b redraw buzzer _ s 0)⟩
  | ldV0Vx x => exact ⟨_, rfl, congrArg _ (State.loadRegs_withSignals b redraw buzzer (regsTo x) s)⟩
  | ldVxK x => exact execLdVxK_withSignals x s b redraw buzzer
  | _ => exact ⟨_, rfl, rfl⟩

/-- Settles O54: the two runs end alike but for the three elements, and the row of the instruction says which of these
it wrote. -/
theorem noInstructionReadsSoundTimerOrSignals : Obligations.NoInstructionReadsSoundTimerOrSignals := by
  unfold Obligations.NoInstructionReadsSoundTimerOrSignals
  intro i s b redraw buzzer
  obtain ⟨t, ht, hu⟩ := exec_withSignals i s b redraw buzzer
  have hframe := exec_eq_matrixFrame ht
  refine ⟨t, _, ht, hu, rfl, ?_, ?_, rfl, (congrArg State.buzzerRequested hframe :)⟩
  · cases hst : writesSt i with
    | true => exact .inl rfl
    | false => exact .inr ⟨rfl, by rw [hframe, matrixFrame, hst]; rfl⟩
  · cases hdisplay : writesDisplay i with
    | true => exact .inl rfl
    | false => exact .inr ⟨rfl, by rw [hframe, matrixFrame, hdisplay]; rfl⟩

end Sys2Proof.Machine
end

section
/-! Calls and returns (R142, R144), by the room the stack has, and the stack faults at the level of the cycle. -/

namespace Sys2Proof.Machine

open Sys2Proof.Spec

theorem exec_call_of_room (nnn : Addr) {s : State} (h : s.sp.val < 16) : exec (.call nnn) s = .next { s with
    stack := s.stack.set s.sp.val s.pc, sp := ⟨s.sp.val + 1, by omega⟩, pc := target nnn } := by
  obtain ⟨_, hpush⟩ | ⟨hfull, _⟩ := s.pushPcThen_cases (fun t => t.setPc (target nnn))
  · exact congrArg _ hpush
  · omega

theorem exec_call_of_full (nnn : Addr) {s : State} (h : s.sp.val = 16) :
    exec (.call nnn) s = .next (s.raise .stackOverflow) := by
  obtain ⟨hroom, _⟩ | ⟨_, hpush⟩ := s.pushPcThen_cases (fun t => t.setPc (target nnn))
  · omega
  · exact congrArg _ hpush

theorem exec_ret_of_nonempty {s : State} (h : 0 < s.sp.val) : exec .ret s = .next { s with
    sp := ⟨s.sp.val - 1, by omega⟩, pc := s.stack[s.sp.val - 1] } := by
  obtain ⟨_, hpop⟩ | ⟨hempty, _⟩ := s.popPc_cases
  · exact congrArg _ hpop
  · omega

theorem exec_ret_of_empty {s : State} (h : s.sp.val = 0) : exec .ret s = .next (s.raise .stackUnderflow) := by
  obtain ⟨hsome, _⟩ | ⟨_, hpop⟩ := s.popPc_cases
  · omega
  · exact congrArg _ hpop

theorem cycle_raise (s : State) (c : FaultCause) : cycle (s.raise c) = .next (s.raise c) :=
  cycle_of_halted (s.raise_fault c)

theorem State.advancePc_pc_eq_ofNat (s : State) : s.advancePc.pc = BitVec.ofNat 16 (s.pc.toNat + 2) := by
  rw [s.advancePc_eq]

/-- Settles O14: the two cases are an address to pop and an empty stack. -/
theorem returnPopsPc : Obligations.ReturnPopsPc := by
  unfold Obligations.ReturnPopsPc
  refine fun s => ⟨decode_encode (i := .ret) rfl, ?_⟩
  by_cases h : 0 < s.sp.val
  · exact ⟨_, exec_ret_of_nonempty h, fun _ => ⟨rfl, rfl, rfl⟩, fun hempty => absurd hempty h.ne'⟩
  · exact ⟨_, exec_ret_of_empty (by omega), fun hsome => absurd hsome h, fun _ => ⟨rfl, cycle_raise _ _⟩⟩

/-- A return from the state a call left, wherever `PC` is then, pops what the call pushed (R142, R144). -/
theorem exec_ret_of_pushed {s t : State} (h : s.sp.val < 16) (hsp : t.sp.val = s.sp.val + 1)
    (hslot : t.stack[s.sp.val] = s.pc) : exec .ret t = .next { t with sp := s.sp, pc := s.pc } := by
  rw [exec_ret_of_nonempty (by omega)]
  simp only [hsp, Nat.add_sub_cancel, hslot]

/-- Settles O16: the two cases are a free slot and a full stack. -/
theorem callPushesPc : Obligations.CallPushesPc := by
  unfold Obligations.CallPushesPc
  refine fun nnn s => ⟨decode_of_eq_encode (wordNNN_eq_encodeNNN 0x2#4 nnn) rfl, ?_⟩
  by_cases h : s.sp.val < 16
  · refine ⟨_, exec_call_of_room nnn h, fun _ => ⟨Vector.getElem_set_self _, fun k hk hne => ?_, rfl,
      target_toNat nnn, rfl, fun elsewhere => ?_⟩, fun hfull => by omega⟩
    · exact Vector.getElem_set_ne h hk hne.symm
    · exact ⟨_, exec_ret_of_pushed h rfl (Vector.getElem_set_self _), rfl, rfl⟩
  · exact ⟨_, exec_call_of_full nnn (by omega), fun hroom => absurd hroom h, fun _ => ⟨rfl, cycle_raise _ _⟩⟩

/-- Settles O17: the first cycle pushes the address past the call, and the second pops it. -/
theorem callThenReturnComesBack : Obligations.CallThenReturnComesBack := by
  unfold Obligations.CallThenReturnComesBack
  intro nnn s hcall h
  refine ⟨_, (cycle_of_atInstr hcall).trans (exec_call_of_room nnn (s := s.advancePc) h), fun hret => ?_⟩
  rw [cycle_of_atInstr hret, ← s.advancePc_pc_eq_ofNat]
  exact exec_ret_of_pushed (s := s.advancePc) h rfl (Vector.getElem_set_self _)

/-- Settles O11: fault entry past the instruction, and a halted cycle after it. -/
theorem faultEntryThenHalted : Obligations.FaultEntryThenHalted := by
  unfold Obligations.FaultEntryThenHalted
  rintro s c (⟨⟨nnn, hat⟩, hsp, rfl⟩ | ⟨hat, hsp, rfl⟩)
  · refine ⟨_, (cycle_of_atInstr hat).trans (exec_call_of_full nnn hsp), ?_, cycle_raise _ _⟩
    rw [s.advancePc_eq]
    rfl
  · refine ⟨_, (cycle_of_atInstr hat).trans (exec_ret_of_empty hsp), ?_, cycle_raise _ _⟩
    rw [s.advancePc_eq]
    rfl

end Sys2Proof.Machine
end

section
/-! The cycle and the step (R120 to R126): which instruction runs, and where `PC` ends. -/

namespace Sys2Proof.Machine

open Sys2Proof.Spec

/-- A cycle at a word that selects no instruction reports it (R126). -/
theorem cycle_of_decode_error {s : State} {e : DecodeError} (hfault : s.fault = none)
    (h : decode (fetchedWord s) = .error e) :
    cycle s = .next (s.advancePc.emit (.unknownOpcode (fetchedWord s) s.pc)) := by
  simp [cycle, hfault, State.fetch_eq_fetchedWord, h]

theorem cycle_of_unknown {s : State} (hfault : s.fault = none) (h : Unknown (fetchedWord s)) :
    cycle s = .next (s.advancePc.emit (.unknownOpcode (fetchedWord s) s.pc)) :=
  cycle_of_decode_error hfault ((unknownOpcodesAreExactlyTheTable (fetchedWord s)).1 h)

/-- Settles O7: the pre-increment and the report are all that such a cycle does. -/
theorem unknownOpcodeIsReportedNoOp : Obligations.UnknownOpcodeIsReportedNoOp := by
  unfold Obligations.UnknownOpcodeIsReportedNoOp
  intro s hfault hunknown
  rw [cycle_of_unknown hfault hunknown, s.advancePc_eq]
  rfl

/-- Settles O58, by what a step is with and without an operation scheduled. -/
theorem stepPerformsTheHeadOfTheSchedule : Obligations.StepPerformsTheHeadOfTheSchedule := by
  unfold Obligations.StepPerformsTheHeadOfTheSchedule
  exact fun s => ⟨fun _ _ h => step_of_schedule h, fun h => step_of_empty_schedule h, perform_cycle s⟩

/-- Settles O5: both steps are a cycle, which runs the instruction; the schedule does not bear on what is fetched. -/
theorem stepRunsTheDecodedInstruction : Obligations.StepRunsTheDecodedInstruction := by
  unfold Obligations.StepRunsTheDecodedInstruction
  refine fun s i hat => ⟨fun hempty => ?_, fun ops hops => ?_⟩
  · rw [step_of_empty_schedule hempty, cycle_of_atInstr hat, s.advancePc_eq]
  · have hat' : AtInstr { s with schedule := ops } i := hat
    rw [step_of_schedule hops, perform_cycle, cycle_of_atInstr hat', State.advancePc_eq]

/-- Settles O6: the word placed is the one fetched, and nothing else is scheduled. -/
theorem placedWordRunsNext : Obligations.PlacedWordRunsNext := by
  unfold Obligations.PlacedWordRunsNext
  intro s w i hwf hdecode hw
  have hword : tableWord 16 w = BitVec.ofNat 16 w := congrArg (BitVec.ofNat 16) (Nat.mod_eq_of_lt hw)
  have hfetch : (s.withFetchWord 16 w).fetch = BitVec.ofNat 16 w := (placeWord_fetch s _ hwf).trans hword
  have hat : AtInstr (s.withFetchWord 16 w) i := ⟨rfl, by rw [← State.fetch_eq_fetchedWord, hfetch, hdecode]⟩
  rw [step_of_empty_schedule rfl, cycle_of_atInstr hat, State.advancePc_eq]
  rfl

/-- Settles O9: a finished state is at a jump to its own address. -/
theorem finishedStateIsAFixedPoint : Obligations.FinishedStateIsAFixedPoint := by
  unfold Obligations.FinishedStateIsAFixedPoint
  rintro s ⟨hfault, nnn, hdecode, hself⟩
  rw [State.fetch_eq_fetchedWord] at hdecode
  exact (jumpSetsPc nnn s).2.2 ⟨hfault, hdecode⟩ (by rw [← hself, target_toNat])

/-! `PC` after a cycle, instruction by instruction (R125). -/

theorem State.advancePc_skipIf_pc (s : State) (c : Bool) : (s.advancePc.skipIf c).pc =
    if c = true then BitVec.ofNat 16 (s.pc.toNat + 4) else BitVec.ofNat 16 (s.pc.toNat + 2) := by
  have htwice : s.pc + 2 + 2 = BitVec.ofNat 16 (s.pc.toNat + 4) := BitVec.eq_of_toNat_eq (by simp)
  rw [State.skipIf_pc, s.advancePc_pc, htwice, ← s.advancePc_pc, s.advancePc_pc_eq_ofNat]

theorem State.keysDown_eq_nil_iff (s : State) : s.keysDown = [] ↔ ∀ k, s.keyDown k = false := by
  simp [List.eq_nil_iff_forall_not_mem, State.mem_keysDown]

theorem eq_ofNat_of_toNat_eq {w : Word} {n : Nat} (h : w.toNat = n) : w = BitVec.ofNat 16 n := by
  rw [← h, BitVec.ofNat_toNat, BitVec.setWidth_eq]

@[simp] theorem State.advancePc_keyDown (s : State) (k : Key) : s.advancePc.keyDown k = s.keyDown k := rfl

/-- The instructions that leave the pre-incremented `PC`. -/
theorem pcAfter_of_not_writesPc {i : Instr} (h : writesPc i = false) (s : State) :
    pcAfter i s = BitVec.ofNat 16 (s.pc.toNat + 2) := by
  cases i with
  | ret | jp | call | jpV0 | seVxNn | sneVxNn | seVxVy | sneVxVy | skp | sknp | ldVxK => cases h
  | _ => rfl

theorem exec_advancePc_pc {i : Instr} {s t : State} (h : exec i s.advancePc = .next t) : t.pc = pcAfter i s := by
  cases i with
  | seVxNn | sneVxNn | seVxVy | sneVxVy =>
    cases h
    rw [State.advancePc_skipIf_pc]
    simp [pcAfter]
  | skp x =>
    cases h
    exact s.advancePc_skipIf_pc (s.keyDown (keyIndex (s.reg x)))
  | sknp x =>
    cases h
    have hrow : pcAfter (.sknp x) s = if s.keyDown (keyIndex (s.reg x)) = true then
      BitVec.ofNat 16 (s.pc.toNat + 2) else BitVec.ofNat 16 (s.pc.toNat + 4) := rfl
    rw [State.advancePc_skipIf_pc, hrow, State.advancePc_keyDown, State.advancePc_reg]
    cases s.keyDown (keyIndex (s.reg x)) <;> rfl
  | jp nnn =>
    cases h
    exact eq_ofNat_of_toNat_eq (target_toNat nnn)
  | jpV0 nnn =>
    cases h
    exact eq_ofNat_of_toNat_eq (target_add_zext16_toNat nnn (s.reg 0))
  | call nnn =>
    by_cases hfull : s.sp.val = 16
    · cases h.symm.trans (exec_call_of_full nnn (s := s.advancePc) hfull)
      simp [pcAfter, hfull, ← s.advancePc_pc_eq_ofNat]
    · cases h.symm.trans (exec_call_of_room nnn (s := s.advancePc) (by rw [s.advancePc_sp]; omega))
      simp [pcAfter, hfull, eq_ofNat_of_toNat_eq (target_toNat nnn)]
  | ret =>
    by_cases hempty : s.sp.val = 0
    · cases h.symm.trans (exec_ret_of_empty (s := s.advancePc) hempty)
      simp [pcAfter, hempty, ← s.advancePc_pc_eq_ofNat]
    · cases h.symm.trans (exec_ret_of_nonempty (s := s.advancePc) (Nat.pos_of_ne_zero hempty))
      simp [pcAfter, hempty]
  | ldVxK x =>
    obtain ⟨hkeys, hk⟩ | ⟨k, n, hkeys, hk⟩ := execLdVxK_cases x s.advancePc
    · cases h.symm.trans hk
      have hnone := s.keysDown_eq_nil_iff.mp hkeys
      simp [pcAfter, hnone]
    · cases h.symm.trans hk
      have hsome : ∃ k, s.keyDown k = true := ⟨k, (s.mem_keysDown k).mp hkeys⟩
      simp [pcAfter, hsome, ← s.advancePc_pc_eq_ofNat]
  | _ =>
    rw [pcAfter_of_not_writesPc rfl, ← s.advancePc_pc_eq_ofNat, exec_eq_matrixFrame h]
    rfl

/-- Settles O8: an instruction by its own row, and an unknown opcode moves past its two bytes. -/
theorem pcAfterEveryCycle : Obligations.PcAfterEveryCycle := by
  unfold Obligations.PcAfterEveryCycle
  refine fun s hfault => ⟨fun i hdecode => ?_, fun hunknown => ?_⟩
  · obtain ⟨t, ht, _⟩ := exec_matrixFrame i s.advancePc
    exact ⟨t, (cycle_of_atInstr ⟨hfault, hdecode⟩).trans ht, exec_advancePc_pc ht⟩
  · exact ⟨_, cycle_of_unknown hfault hunknown, s.advancePc_pc_eq_ofNat⟩

end Sys2Proof.Machine
end

section
/-! The timers (R263, R264): what a tick leaves, and what `n` of them leave. -/

namespace Sys2Proof.Machine

open Sys2Proof.Spec

theorem State.timerTick_only_timers (s : State) : s.timerTick = { s with
    dt := s.timerTick.dt, st := s.timerTick.st, buzzerRequested := s.timerTick.buzzerRequested } := by
  rw [State.timerTick, State.tickSound_only_sound, s.tickDelay_only_dt]

theorem State.timerTick_dt_toNat (s : State) : s.timerTick.dt.toNat = s.dt.toNat - 1 := by
  rw [State.timerTick, State.tickSound_only_sound]
  exact s.tickDelay_dt

theorem State.timerTick_st_toNat (s : State) : s.timerTick.st.toNat = s.st.toNat - 1 := by
  rw [State.timerTick, State.tickSound_st, s.tickDelay_only_dt]

theorem State.timerTick_buzzer (s : State) :
    s.timerTick.buzzerRequested = (s.buzzerRequested || decide (s.st.toNat = 1)) := by
  have hone : (s.st == 1) = decide (s.st.toNat = 1) := by simp [← BitVec.toNat_inj, beq_eq_decide]
  rw [State.timerTick, State.tickSound_buzzer, s.tickDelay_only_dt, hone]

theorem ticks_dt_toNat (s : State) : ∀ n, (ticks n s).dt.toNat = s.dt.toNat - n
  | 0 => rfl
  | n + 1 => by rw [ticks, State.timerTick_dt_toNat, ticks_dt_toNat s n, Nat.sub_sub]

theorem ticks_st_toNat (s : State) : ∀ n, (ticks n s).st.toNat = s.st.toNat - n
  | 0 => rfl
  | n + 1 => by rw [ticks, State.timerTick_st_toNat, ticks_st_toNat s n, Nat.sub_sub]

theorem ticks_buzzer_iff (s : State) : ∀ n, (ticks n s).buzzerRequested = true ↔
    s.buzzerRequested = true ∨ 0 < s.st.toNat ∧ s.st.toNat ≤ n
  | 0 => by simp [ticks, Nat.pos_iff_ne_zero]
  | n + 1 => by
    rw [ticks, State.timerTick_buzzer, Bool.or_eq_true, decide_eq_true_iff, ticks_buzzer_iff s n, ticks_st_toNat,
      or_assoc]
    exact or_congr_right (by omega)

theorem byte_eq_zero_iff (b : Byte) : b = 0 ↔ b.toNat = 0 := by simp [← BitVec.toNat_inj]

/-- Settles O45: one tick takes 1 off each timer that is not 0, so `n` ticks take off `n`. -/
theorem timerTickDecrements : Obligations.TimerTickDecrements := by
  unfold Obligations.TimerTickDecrements
  refine fun s => ⟨rfl, s.timerTick_dt_toNat, s.timerTick_st_toNat, s.timerTick_buzzer, s.timerTick_only_timers,
    fun n => ⟨?_, ?_⟩⟩
  · rw [byte_eq_zero_iff, ticks_dt_toNat, Nat.sub_eq_zero_iff_le]
  · rw [byte_eq_zero_iff, ticks_st_toNat, Nat.sub_eq_zero_iff_le]

/-- Settles O46, from what `n` ticks leave of the signal, with the signal clear before. -/
theorem buzzerAtEndOfPeriod : Obligations.BuzzerAtEndOfPeriod := by
  unfold Obligations.BuzzerAtEndOfPeriod
  intro s n hclear
  simp [ticks_buzzer_iff, hclear]

end Sys2Proof.Machine
end

section
/-! The step over all operations: progress, the invariant, the halted machine, and who writes the timers. -/

namespace Sys2Proof.Machine

open Sys2Proof.Spec

/-! Progress, and the inversion of a cycle. -/

theorem cycle_goes_on (s : State) : ∃ t, cycle s = .next t := by
  obtain ⟨t, ht, _⟩ := cycle_redrawPending s
  exact ⟨t, ht⟩

theorem perform_goes_on (op : AgentOp) (s : State) : ∃ t, perform op s = .next t := by
  obtain ⟨t, ht, _⟩ := perform_redrawPending op s
  exact ⟨t, ht⟩

/-- What a cycle that ended in `t` was: halted, an instruction, or the report of an unknown opcode (R120). -/
theorem cycle_inversion {s t : State} (h : cycle s = .next t) :
    (s.fault ≠ none ∧ t = s) ∨ (∃ i, AtInstr s i ∧ exec i s.advancePc = .next t) ∨
      (s.fault = none ∧ t = s.advancePc.emit (.unknownOpcode s.fetch s.pc)) := by
  obtain ⟨c, hf, hc⟩ | ⟨i, hf, hd, hc⟩ | ⟨e, hf, _, hc⟩ := cycle_cases s
  · cases h.symm.trans hc
    exact .inl ⟨by simp [hf], rfl⟩
  · exact .inr (.inl ⟨i, ⟨hf, s.fetch_eq_fetchedWord ▸ hd⟩, hc.symm.trans h⟩)
  · cases h.symm.trans hc
    exact .inr (.inr ⟨hf, rfl⟩)

/-! The operations of the Timer Clock and of the host, `Initialize` apart: the elements they leave alone. -/

theorem State.loadProgram_only_memory (s : State) (bytes : List Byte) :
    (s.loadProgram bytes).2 = { s with memory := (s.loadProgram bytes).2.memory } := by
  unfold State.loadProgram
  split <;> rfl

/-- `t` is `s` but for memory, the timers, the keypad, the two signals and the outputs. -/
def CoreKept (s t : State) : Prop := t = { s with
  memory := t.memory, dt := t.dt, st := t.st, keypad := t.keypad, redrawPending := t.redrawPending
  buzzerRequested := t.buzzerRequested, outputs := t.outputs }

theorem perform_coreKept {op : AgentOp} {s t : State} (hc : op ≠ .cycle) (hi : op ≠ .initializeState)
    (h : perform op s = .next t) : CoreKept s t := by
  cases op with
  | cycle => contradiction
  | initializeState => contradiction
  | timerTick =>
    cases (perform_timerTick s).symm.trans h
    rw [CoreKept, s.timerTick_only_timers]
  | loadProgram bytes =>
    cases h
    rw [CoreKept, s.loadProgram_only_memory bytes]
    rfl
  | setKey | clearRedraw | clearBuzzer =>
    cases h
    rfl

/-- Settles O12: on a halted machine a cycle changes nothing, and the other operations keep the core. -/
theorem haltedUntilInitialize : Obligations.HaltedUntilInitialize := by
  unfold Obligations.HaltedUntilInitialize
  intro s c hfault
  have hcycle : s.nextOp = .cycle → step s = .next s.dropOp := fun hop => by
    rw [step_eq_perform, hop]
    exact cycle_of_halted (s := s.dropOp) hfault
  obtain ⟨t, ht⟩ := perform_goes_on s.nextOp s.dropOp
  refine ⟨hcycle, t, ht, fun hop => ?_, fun hop => ?_⟩
  · rw [hop] at ht
    cases ht
    rfl
  · by_cases hc : s.nextOp = .cycle
    · cases (hcycle hc).symm.trans ht
      exact ⟨hfault, rfl, rfl, rfl, rfl, rfl, rfl⟩
    · rw [perform_coreKept hc hop ht]
      exact ⟨hfault, rfl, rfl, rfl, rfl, rfl, rfl⟩

/-! The invariant (R37). -/

theorem State.inv_of_running {s : State} (hwf : s.memory.wf) (h : s.fault = none) : s.Inv := by
  exact ⟨hwf, by simp [h], by simp [h]⟩

theorem exec_wf {i : Instr} {s t : State} (h : exec i s = .next t) (hwf : s.memory.wf) : t.memory.wf := by
  cases i with
  | ldBVx | stV0Vx =>
    cases h
    exact State.storeFrom_wf _ 0 hwf
  | _ =>
    rw [exec_eq_matrixFrame h]
    exact hwf

/-- An instruction on a running machine: a fault it raises agrees with the stack, and otherwise there is none. -/
theorem exec_inv {i : Instr} {s t : State} (h : exec i s = .next t) (hwf : s.memory.wf) (hrun : s.fault = none) :
    t.Inv := by
  have hwf' := exec_wf h hwf
  obtain ⟨_, hfull, hexec⟩ | ⟨_, hempty, hexec⟩ | ⟨_, _, u, hexec, hfault⟩ := exec_stackFault_cases i s
  · cases h.symm.trans hexec
    exact ⟨hwf', fun _ => hfull, nofun⟩
  · cases h.symm.trans hexec
    exact ⟨hwf', nofun, fun _ => hempty⟩
  · cases h.symm.trans hexec
    exact State.inv_of_running hwf' (hfault.trans hrun)

theorem cycle_inv {s t : State} (h : cycle s = .next t) (hinv : s.Inv) : t.Inv := by
  obtain ⟨_, rfl⟩ | ⟨i, ⟨hrun, _⟩, hexec⟩ | ⟨hrun, rfl⟩ := cycle_inversion h
  · exact hinv
  · exact exec_inv hexec hinv.1 hrun
  · exact State.inv_of_running hinv.1 hrun

/-- Settles O57: memory lists nothing, and there is no fault. -/
theorem resetHasTheInvariant : Obligations.ResetHasTheInvariant :=
  State.inv_of_running Memory.empty_wf rfl

theorem perform_inv {op : AgentOp} {s t : State} (h : perform op s = .next t) (hinv : s.Inv) : t.Inv := by
  cases op with
  | cycle => exact cycle_inv h hinv
  | timerTick =>
    cases (perform_timerTick s).symm.trans h
    rw [s.timerTick_only_timers]
    exact hinv
  | initializeState =>
    cases h
    exact resetHasTheInvariant
  | loadProgram bytes =>
    cases h
    have hwf := State.loadProgram_wf hinv.1 bytes
    rw [s.loadProgram_only_memory bytes]
    exact ⟨hwf, hinv.2⟩
  | setKey | clearRedraw | clearBuzzer =>
    cases h
    exact hinv

/-- Settles O56: a step is an operation of an agent, each of which goes on and keeps the invariant. -/
theorem everyStepGoesOnAndKeepsTheInvariant : Obligations.EveryStepGoesOnAndKeepsTheInvariant := by
  unfold Obligations.EveryStepGoesOnAndKeepsTheInvariant
  intro s hinv
  obtain ⟨t, ht⟩ := perform_goes_on s.nextOp s.dropOp
  exact ⟨t, ht, perform_inv ht hinv⟩

/-! Who writes the timers and the buzzer signal (R26, R30). -/

theorem exec_dt {i : Instr} {s t : State} (h : exec i s = .next t) :
    t.dt = s.dt ∨ ∃ x, i = .ldDtVx x ∧ t.dt = s.reg x := by
  cases i with
  | ldDtVx x =>
    cases h
    exact .inr ⟨x, rfl, rfl⟩
  | _ =>
    left
    rw [exec_eq_matrixFrame h]
    rfl

theorem cycle_dt {s t : State} (h : cycle s = .next t) :
    t.dt = s.dt ∨ ∃ x, AtInstr s (.ldDtVx x) ∧ t.dt = s.reg x := by
  obtain ⟨_, rfl⟩ | ⟨i, hat, hexec⟩ | ⟨_, rfl⟩ := cycle_inversion h
  · exact .inl rfl
  · obtain hdt | ⟨x, rfl, hdt⟩ := exec_dt hexec
    · exact .inl hdt
    · exact .inr ⟨x, hat, hdt⟩
  · exact .inl rfl

/-- A tick, a reset and a load do not raise the timer, and the other operations of the host leave it. -/
theorem perform_dt {op : AgentOp} {s t : State} (h : perform op s = .next t) :
    t.dt.toNat ≤ s.dt.toNat ∨ op = .cycle ∧ ∃ x, AtInstr s (.ldDtVx x) ∧ t.dt = s.reg x := by
  cases op with
  | cycle => exact (cycle_dt h).imp (fun hdt => Nat.le_of_eq (congrArg BitVec.toNat hdt)) (⟨rfl, ·⟩)
  | timerTick =>
    cases (perform_timerTick s).symm.trans h
    exact .inl (s.timerTick_dt_toNat ▸ Nat.sub_le _ _)
  | initializeState =>
    cases h
    exact .inl (Nat.zero_le _)
  | loadProgram bytes =>
    cases h
    rw [s.loadProgram_only_memory bytes]
    exact .inl (Nat.le_refl _)
  | setKey | clearRedraw | clearBuzzer =>
    cases h
    exact .inl (Nat.le_refl _)

/-- Settles O47: of the two things an operation can do to the timer, a rise is the second. -/
theorem delayTimerRisesOnlyByFX15 : Obligations.DelayTimerRisesOnlyByFX15 := by
  unfold Obligations.DelayTimerRisesOnlyByFX15
  intro s t hstep hrise
  exact (perform_dt (s := s.dropOp) hstep).resolve_left (Nat.not_le.mpr hrise)

theorem exec_st {i : Instr} {s t : State} (h : exec i s = .next t) :
    t.st = s.st ∨ ∃ x, i = .ldStVx x ∧ t.st = s.reg x := by
  cases i with
  | ldStVx x =>
    cases h
    exact .inr ⟨x, rfl, rfl⟩
  | _ =>
    left
    rw [exec_eq_matrixFrame h]
    rfl

theorem cycle_sound {s t : State} (h : cycle s = .next t) :
    (t.st = s.st ∨ ∃ x, AtInstr s (.ldStVx x) ∧ t.st = s.reg x) ∧ t.buzzerRequested = s.buzzerRequested := by
  obtain ⟨_, rfl⟩ | ⟨i, hat, hexec⟩ | ⟨_, rfl⟩ := cycle_inversion h
  · exact ⟨.inl rfl, rfl⟩
  · refine ⟨?_, (congrArg State.buzzerRequested (exec_eq_matrixFrame hexec) :)⟩
    obtain hst | ⟨x, rfl, hst⟩ := exec_st hexec
    · exact .inl hst
    · exact .inr ⟨x, hat, hst⟩
  · exact ⟨.inl rfl, rfl⟩

/-- What an operation that took `s` to `t` did to the sound timer and its signal (R26, R30, R263, R264). -/
def SoundAfter (s t : State) : AgentOp → Prop
  | .cycle => (t.st = s.st ∨ ∃ x, AtInstr s (.ldStVx x) ∧ t.st = s.reg x) ∧ t.buzzerRequested = s.buzzerRequested
  | .timerTick => t.st.toNat = s.st.toNat - 1 ∧
      t.buzzerRequested = (s.buzzerRequested || decide (s.st.toNat = 1))
  | .initializeState => t.st = 0 ∧ t.buzzerRequested = false
  | .clearBuzzer => t.st = s.st ∧ t.buzzerRequested = false
  | .loadProgram _ | .setKey _ _ | .clearRedraw => t.st = s.st ∧ t.buzzerRequested = s.buzzerRequested

theorem perform_soundAfter {op : AgentOp} {s t : State} (h : perform op s = .next t) : SoundAfter s t op := by
  cases op with
  | cycle => exact cycle_sound h
  | timerTick =>
    cases (perform_timerTick s).symm.trans h
    exact ⟨s.timerTick_st_toNat, s.timerTick_buzzer⟩
  | loadProgram bytes =>
    cases h
    rw [s.loadProgram_only_memory bytes]
    exact ⟨rfl, rfl⟩
  | initializeState | clearBuzzer | setKey | clearRedraw =>
    cases h
    exact ⟨rfl, rfl⟩

/-- Taking an operation off the schedule does not move the sound timer, the signal or what is fetched. -/
theorem step_soundAfter {s t : State} (h : step s = .next t) : SoundAfter s t s.nextOp := by
  have hafter : SoundAfter s.dropOp t s.nextOp := perform_soundAfter h
  generalize s.nextOp = op at hafter ⊢
  cases op <;> exact hafter

/-- Settles O59, from what each operation does to the two elements. -/
theorem soundTimerAndBuzzerChange : Obligations.SoundTimerAndBuzzerChange := by
  unfold Obligations.SoundTimerAndBuzzerChange
  refine ⟨rfl, fun s => ?_⟩
  obtain ⟨t, ht⟩ := perform_goes_on s.nextOp s.dropOp
  refine ⟨t, ht, ?_⟩
  have hafter := step_soundAfter ht
  generalize s.nextOp = op at hafter ⊢
  cases op with
  | cycle =>
    obtain ⟨hst, hbuzzer⟩ := hafter
    refine ⟨fun hne => .inr (.inl ⟨rfl, hst.resolve_left hne⟩), ?_⟩
    simp +contextual [hbuzzer]
  | timerTick =>
    obtain ⟨hst, hbuzzer⟩ := hafter
    refine ⟨fun hne => .inl ⟨rfl, ?_⟩, ?_⟩
    · rw [ne_eq, ← BitVec.toNat_inj, hst] at hne
      rw [hst]
      omega
    · simp +contextual [hbuzzer]
  | initializeState =>
    obtain ⟨hst, hbuzzer⟩ := hafter
    refine ⟨fun _ => .inr (.inr ⟨rfl, hst⟩), ?_⟩
    simp [hbuzzer]
  | loadProgram | setKey | clearRedraw | clearBuzzer =>
    obtain ⟨hst, hbuzzer⟩ := hafter
    refine ⟨fun hne => absurd hst hne, ?_⟩
    simp +contextual [hbuzzer]

end Sys2Proof.Machine
end

section
/-! `TIMER_COUPLING` (R127, R265): a cycle and a run under `per_cycle` as runs under `decoupled`. -/

namespace Sys2Proof.Machine

theorem State.tickUnlessHalted_of_running {s : State} (h : s.fault = none) : s.tickUnlessHalted = s.timerTick := by
  simp [State.tickUnlessHalted, h]

theorem State.tickUnlessHalted_of_halted {s : State} (h : s.fault ≠ none) : s.tickUnlessHalted = s := by
  obtain ⟨c, hc⟩ := Option.ne_none_iff_exists'.mp h
  simp [State.tickUnlessHalted, hc]

/-- Settles O48: the cycle of `per_cycle` is the cycle of `decoupled`, and then the tick unless it is halted. -/
theorem perCycleIsASchedule : Obligations.PerCycleIsASchedule := by
  unfold Obligations.PerCycleIsASchedule
  intro s
  obtain ⟨t, ht⟩ := cycle_goes_on s
  have hcycle : performUnder .decoupled .cycle s = .next t := ht
  refine ⟨t, _, performAllUnder_cons hcycle [], cycleUnder_perCycle ht,
    fun hhalted => State.tickUnlessHalted_of_halted hhalted, fun hrun => ?_⟩
  rw [State.tickUnlessHalted_of_running hrun]
  exact (performAllUnder_cons hcycle [.timerTick]).trans
    (performAllUnder_cons (performUnder_decoupled_timerTick t) [])

/-- Every tick of the run stands directly after a cycle. -/
def TicksFollowCycles (ops : List AgentOp) : Prop :=
  ops.head? ≠ some .timerTick ∧ ∀ k, ops[k + 1]? = some .timerTick → ops[k]? = some .cycle

theorem TicksFollowCycles.nil : TicksFollowCycles [] := by simp [TicksFollowCycles]

theorem TicksFollowCycles.cons {op : AgentOp} {ops : List AgentOp} (hop : op ≠ .timerTick)
    (h : TicksFollowCycles ops) : TicksFollowCycles (op :: ops) := by
  obtain ⟨hhead, hnext⟩ := h
  refine ⟨by simpa using hop, fun k hk => ?_⟩
  cases k with
  | zero => exact absurd (List.head?_eq_getElem? .. ▸ hk) hhead
  | succ k => exact hnext k hk

theorem TicksFollowCycles.cycle_tick {ops : List AgentOp} (h : TicksFollowCycles ops) :
    TicksFollowCycles (.cycle :: .timerTick :: ops) := by
  obtain ⟨hhead, hnext⟩ := h
  refine ⟨by simp, fun k hk => ?_⟩
  match k, hk with
  | 0, _ => rfl
  | 1, hk => exact absurd (List.head?_eq_getElem? .. ▸ hk) hhead
  | k + 2, hk => exact hnext k hk

/-- A run under `per_cycle` is the run under `decoupled` that ticks after the cycles that bring a tick and leaves out
the ticks that are passed over. -/
theorem perCycle_run_is_decoupled_run : ∀ (ops : List AgentOp) (s : State), ∃ ops' : List AgentOp,
    performAllUnder .perCycle ops s = performAllUnder .decoupled ops' s ∧
    ops'.filter (· ≠ .timerTick) = ops.filter (· ≠ .timerTick) ∧ TicksFollowCycles ops'
  | [], s => ⟨[], rfl, rfl, .nil⟩
  | op :: ops, s => by
    by_cases hc : op = .cycle
    · subst hc
      obtain ⟨t, ht⟩ := cycle_goes_on s
      have hdecoupled : performUnder .decoupled .cycle s = .next t := ht
      have hperCycle : performUnder .perCycle .cycle s = .next t.tickUnlessHalted := cycleUnder_perCycle ht
      obtain ⟨ops', hsame, hfilter, hticks⟩ := perCycle_run_is_decoupled_run ops t.tickUnlessHalted
      rw [performAllUnder_cons hperCycle, hsame]
      by_cases hrun : t.fault = none
      · refine ⟨.cycle :: .timerTick :: ops', ?_, by simpa using hfilter, hticks.cycle_tick⟩
        rw [performAllUnder_cons hdecoupled, performAllUnder_cons (performUnder_decoupled_timerTick t),
          State.tickUnlessHalted_of_running hrun]
      · refine ⟨.cycle :: ops', ?_, by simpa using hfilter, hticks.cons (by simp)⟩
        rw [performAllUnder_cons hdecoupled, State.tickUnlessHalted_of_halted hrun]
    by_cases ht : op = .timerTick
    · subst ht
      obtain ⟨ops', hsame, hfilter, hticks⟩ := perCycle_run_is_decoupled_run ops s
      refine ⟨ops', ?_, by simpa using hfilter, hticks⟩
      rw [performAllUnder_cons (performUnder_perCycle_timerTick s), hsame]
    · obtain ⟨t, hdecoupled⟩ := perform_goes_on op s
      have hperCycle := (performUnder_eq_perform .perCycle s hc ht).trans hdecoupled
      obtain ⟨ops', hsame, hfilter, hticks⟩ := perCycle_run_is_decoupled_run ops t
      refine ⟨op :: ops', ?_, by simpa [ht] using hfilter, hticks.cons ht⟩
      rw [performAllUnder_cons hperCycle, hsame]
      exact (performAllUnder_cons hdecoupled ops').symm

/-- Settles O60: a cycle, a tick and the other operations one at a time, and then runs of them. -/
theorem perCycleTicksOnlyAfterACycle : Obligations.PerCycleTicksOnlyAfterACycle := by
  unfold Obligations.PerCycleTicksOnlyAfterACycle
  refine ⟨fun s => ⟨fun hhalted => ?_, ?_, performUnder_perCycle_timerTick s,
    fun op hc ht => performUnder_eq_perform .perCycle s hc ht⟩, perCycle_run_is_decoupled_run⟩
  · obtain ⟨c, hc⟩ := Option.ne_none_iff_exists'.mp hhalted
    rw [performUnder_cycle, cycleUnder_perCycle (cycle_of_halted hc), State.tickUnlessHalted_of_halted hhalted]
  · obtain ⟨t, ht⟩ := cycle_goes_on s
    refine ⟨t, ht, fun _ => ?_⟩
    rw [performUnder_cycle, cycleUnder_perCycle ht]
    split
    · next hrun => rw [State.tickUnlessHalted_of_running hrun]
    · next hhalted => rw [State.tickUnlessHalted_of_halted hhalted]

end Sys2Proof.Machine
end

section
/-! Reset and the operations of the host (R290, R291, R270 to R272). -/

namespace Sys2Proof.Machine

/-! Writing a program: bytes at consecutive addresses. -/

theorem Memory.writeBytes_cons (n : Nat) (b : Byte) (bs : List Byte) (m : Memory) :
    m.writeBytes (BitVec.ofNat 12 n) (b :: bs) =
      (m.write (BitVec.ofNat 12 n) b).writeBytes (BitVec.ofNat 12 (n + 1)) bs := by
  rw [BitVec.ofNat_add]
  rfl

/-- A byte outside the block written reads as before. -/
theorem Memory.read_writeBytes_of_ne : ∀ (bytes : List Byte) (n : Nat) {m : Memory} {a : Addr}, m.wf →
    (∀ j, j < bytes.length → a ≠ BitVec.ofNat 12 (n + j)) →
    (m.writeBytes (BitVec.ofNat 12 n) bytes).read a = m.read a
  | [], _, _, _, _, _ => rfl
  | b :: bs, n, m, a, h, ha => by
    have hrest : ∀ j, j < bs.length → a ≠ BitVec.ofNat 12 (n + 1 + j) := fun j hj => by
      have := ha (j + 1) (by simpa using hj)
      rwa [Nat.add_assoc, Nat.add_comm 1 j]
    have hfirst : a ≠ BitVec.ofNat 12 n := ha 0 (by simp)
    rw [writeBytes_cons, read_writeBytes_of_ne bs (n + 1) (write_wf h _ b) hrest, read_write_of_ne h b hfirst]

/-- A block of at most 4096 bytes reads back byte by byte. -/
theorem Memory.read_writeBytes : ∀ (bytes : List Byte) (n j : Nat) {m : Memory} (hj : j < bytes.length), m.wf →
    bytes.length ≤ 4096 → (m.writeBytes (BitVec.ofNat 12 n) bytes).read (BitVec.ofNat 12 (n + j)) = bytes[j]
  | b :: bs, n, 0, m, _, h, hlen => by
    have hrest : ∀ j, j < bs.length → BitVec.ofNat 12 n ≠ BitVec.ofNat 12 (n + 1 + j) := fun j hj e => by
      have := congrArg BitVec.toNat e
      simp only [List.length_cons, BitVec.toNat_ofNat] at this hlen
      omega
    rw [writeBytes_cons, Nat.add_zero n, read_writeBytes_of_ne bs (n + 1) (write_wf h _ b) hrest,
      read_write_self h, List.getElem_cons_zero]
  | b :: bs, n, j + 1, m, hj, h, hlen => by
    have ih := read_writeBytes bs (n + 1) j (by simpa using hj) (write_wf h (BitVec.ofNat 12 n) b)
      (by simp only [List.length_cons] at hlen; omega)
    rw [writeBytes_cons, List.getElem_cons_succ, ← ih, Nat.add_assoc, Nat.add_comm 1 j]

theorem State.loadProgram_of_fits (s : State) {bytes : List Byte} (h : bytes.length ≤ 3584) : s.loadProgram bytes =
    (.ok, { s with memory := s.memory.writeBytes (BitVec.ofNat 12 Config.programBase) bytes }) :=
  if_neg (Nat.not_lt.mpr h)

theorem State.loadProgram_of_long (s : State) {bytes : List Byte} (h : 3584 < bytes.length) :
    s.loadProgram bytes = (.loadError, s) := if_pos h

/-- Settles O51: the two cases are a program that fits, written as one block, and a longer one. -/
theorem loadProgramWritesOrRejects : Obligations.LoadProgramWritesOrRejects := by
  unfold Obligations.LoadProgramWritesOrRejects
  intro s bytes hwf
  refine ⟨_, perform_loadProgram bytes s, fun hfits => ?_, fun hlong => ?_⟩
  · rw [s.loadProgram_of_fits hfits]
    refine ⟨fun k hk => Memory.read_writeBytes bytes 0x200 k hk hwf (by omega), fun a ha => ?_, rfl⟩
    refine Memory.read_writeBytes_of_ne bytes 0x200 hwf fun j hj e => ?_
    have := congrArg BitVec.toNat e
    rw [BitVec.toNat_ofNat] at this
    omega
  · rw [s.loadProgram_of_long hlong]
    rfl

/-- Settles O49: the elements of R36 one by one; memory lists nothing, so that every byte reads as its reset content. -/
theorem resetValues : Obligations.ResetValues := by
  unfold Obligations.ResetValues
  exact ⟨fun a => Memory.empty_read a, fun r => Vector.getElem_replicate r.isLt, rfl, rfl,
    fun k hk => Vector.getElem_replicate hk, rfl, rfl, rfl, fun k => Vector.getElem_replicate k.isLt,
    fun x y => displayCell_blank x y, rfl, rfl, rfl⟩

/-- Settles O50: the model's own fields are all that `Initialize` keeps. -/
theorem initializeFromAnyState : Obligations.InitializeFromAnyState := by
  unfold Obligations.InitializeFromAnyState
  exact fun s => ⟨_, perform_initializeState s, rfl, s.initializeState_draws, s.initializeState_schedule,
    s.initializeState_outputs⟩

/-- Settles O52: each of the three operations is the update of one field. -/
theorem hostWritesOneElement : Obligations.HostWritesOneElement := by
  unfold Obligations.HostWritesOneElement
  refine fun s k down => ⟨⟨_, perform_setKey k down s, ?_, fun j hj => ?_, rfl⟩, perform_clearRedraw s,
    perform_clearBuzzer s⟩
  · rw [s.setKey_keyDown, if_pos rfl]
  · rw [s.setKey_keyDown, if_neg hj]

end Sys2Proof.Machine
end

section
/-! Arithmetic with a flag, and the random byte (R160, R167 to R173). -/

namespace Sys2Proof.Machine

open Sys2Proof.Spec

/-! The flag and the result, written one after the other. -/

theorem State.setFlagThenResult_onlyRegs (s : State) (flag : Byte) (x : Reg) (result : Byte) :
    OnlyRegs [15, x] s (s.setFlagThenResult flag x result) := by
  refine ⟨s.setFlagThenResult_only_v flag x result, fun r hr => ?_⟩
  obtain ⟨hF, hx⟩ : r ≠ 15 ∧ r ≠ x := by simpa using hr
  rw [State.setFlagThenResult_reg, if_neg hx, if_neg hF]

theorem State.setFlagThenResult_result (s : State) (flag : Byte) (x : Reg) (result : Byte) :
    (s.setFlagThenResult flag x result).reg x = result := by
  rw [State.setFlagThenResult_reg, if_pos rfl]

theorem State.setFlagThenResult_flag (s : State) (flag : Byte) {x : Reg} (hx : x ≠ 15) (result : Byte) :
    (s.setFlagThenResult flag x result).reg 15 = flag := by
  rw [State.setFlagThenResult_reg, if_neg hx.symm, if_pos rfl]

/-! The flags as numbers. -/

theorem flagByte_toNat (c : Bool) : (flagByte c).toNat = if c = true then 1 else 0 := by
  cases c <;> rfl

theorem carryFlag_toNat (a b : Byte) : (carryFlag a b).toNat = if a.toNat + b.toNat > 255 then 1 else 0 := by
  simp [carryFlag, flagByte_toNat]

theorem notBorrowFlag_toNat (a b : Byte) :
    (notBorrowFlag a b).toNat = if (a.toNat : Int) - b.toNat < 0 then 0 else 1 := by
  by_cases h : (a.toNat : Int) - b.toNat < 0 <;> simp [notBorrowFlag, flagByte_toNat, h]

theorem lowBitFlag_toNat (a : Byte) : (lowBitFlag a).toNat = a.toNat % 2 := by
  simp [lowBitFlag, Nat.and_one_is_mod]

theorem highBitFlag_toNat (a : Byte) : (highBitFlag a).toNat = a.toNat / 128 := by
  revert a
  decide

/-- The difference modulo 256 as integers (R168, R170). -/
theorem sub_toNat_eq_emod (a b : Byte) : ((a - b).toNat : Int) = ((a.toNat : Int) - b.toNat) % 256 := by
  rw [BitVec.toNat_sub]
  have := b.isLt
  omega

/-- Settles O25: the flag is the carry and the result the sum, both of the old operands. -/
theorem addSetsCarry : Obligations.AddSetsCarry := by
  unfold Obligations.AddSetsCarry
  refine fun x y s => ⟨decode_of_eq_encode (wordXYN_eq_encodeXYN 0x8#4 x y 0x4#4) rfl, _, rfl, ?_, fun hx => ?_,
    s.setFlagThenResult_onlyRegs _ x _⟩
  · rw [State.setFlagThenResult_result, BitVec.toNat_add]
  · rw [State.setFlagThenResult_flag _ _ hx, carryFlag_toNat]

/-- Settles O26: the flag is not-borrow and the result the difference, both of the old operands. -/
theorem subSetsNotBorrow : Obligations.SubSetsNotBorrow := by
  unfold Obligations.SubSetsNotBorrow
  refine fun x y s => ⟨decode_of_eq_encode (wordXYN_eq_encodeXYN 0x8#4 x y 0x5#4) rfl, _, rfl, ?_, fun hx => ?_,
    s.setFlagThenResult_onlyRegs _ x _⟩
  · rw [State.setFlagThenResult_result, sub_toNat_eq_emod]
  · rw [State.setFlagThenResult_flag _ _ hx, notBorrowFlag_toNat]

/-- Settles O27: as O26, with the operands the other way round. -/
theorem subnSetsNotBorrow : Obligations.SubnSetsNotBorrow := by
  unfold Obligations.SubnSetsNotBorrow
  refine fun x y s => ⟨decode_of_eq_encode (wordXYN_eq_encodeXYN 0x8#4 x y 0x7#4) rfl, _, rfl, ?_, fun hx => ?_,
    s.setFlagThenResult_onlyRegs _ x _⟩
  · rw [State.setFlagThenResult_result, sub_toNat_eq_emod]
  · rw [State.setFlagThenResult_flag _ _ hx, notBorrowFlag_toNat]

/-! A shift reads the register again after the flag is written: with `X` other than F it finds the old value, with
`X = F` the flag. -/

theorem exec_shr (x y : Reg) (s : State) : exec (.shr x y) s = .next
    (s.setFlagThenResult (lowBitFlag (s.reg x)) x ((if x = 15 then lowBitFlag (s.reg x) else s.reg x) >>> 1)) := by
  rw [← s.setReg_reg x 15 (lowBitFlag (s.reg x))]
  rfl

theorem exec_shl (x y : Reg) (s : State) : exec (.shl x y) s = .next
    (s.setFlagThenResult (highBitFlag (s.reg x)) x ((if x = 15 then highBitFlag (s.reg x) else s.reg x) <<< 1)) := by
  rw [← s.setReg_reg x 15 (highBitFlag (s.reg x))]
  rfl

/-- Settles O28: the two cases are a shift of the old register and, for VF, of the flag, which is 0 or 1. -/
theorem shiftRightSetsFlag : Obligations.ShiftRightSetsFlag := by
  unfold Obligations.ShiftRightSetsFlag
  refine fun x y s => ⟨decode_of_eq_encode (wordXYN_eq_encodeXYN 0x8#4 x y 0x6#4) rfl, _, exec_shr x y s,
    fun hx => ⟨?_, ?_⟩, fun hx => ?_, s.setFlagThenResult_onlyRegs _ x _⟩
  · rw [State.setFlagThenResult_result, if_neg hx]
    simp [Nat.shiftRight_eq_div_pow]
  · rw [State.setFlagThenResult_flag _ _ hx, lowBitFlag_toNat]
  · subst hx
    rw [State.setFlagThenResult_result, if_pos rfl, byte_eq_zero_iff, BitVec.toNat_ushiftRight, lowBitFlag_toNat]
    omega

/-- Settles O29: the two cases are a shift of the old register and, for VF, of the flag, which is 0 or 1. -/
theorem shiftLeftSetsFlag : Obligations.ShiftLeftSetsFlag := by
  unfold Obligations.ShiftLeftSetsFlag
  refine fun x y s => ⟨decode_of_eq_encode (wordXYN_eq_encodeXYN 0x8#4 x y 0xE#4) rfl, _, exec_shl x y s,
    fun hx => ⟨?_, ?_⟩, fun hx => ?_, s.setFlagThenResult_onlyRegs _ x _⟩
  · rw [State.setFlagThenResult_result, if_neg hx, BitVec.toNat_shiftLeft, Nat.shiftLeft_eq]
    omega
  · rw [State.setFlagThenResult_flag _ _ hx, highBitFlag_toNat]
  · subst hx
    have := (s.reg 15).isLt
    rw [State.setFlagThenResult_result, if_pos rfl, BitVec.toNat_shiftLeft, highBitFlag_toNat, Nat.shiftLeft_eq]
    split <;> omega

/-- Settles O30: the register takes the masked draw, so no bit outside the mask, and the counter moves by one. -/
theorem randomIsMaskedDraw : Obligations.RandomIsMaskedDraw := by
  unfold Obligations.RandomIsMaskedDraw
  intro x nn s
  have hreg : ((s.setReg x (s.draw8 &&& nn)).consumeDraw).reg x = s.draw8 &&& nn := s.setReg_reg_self x _
  refine ⟨decode_of_eq_encode (wordXNN_eq_encodeXNN 0xC#4 x nn) rfl, _, rfl, hreg, fun k hk => ?_, rfl,
    fun r hr => s.setReg_reg_of_ne _ hr⟩
  rw [hreg, BitVec.getLsbD_and, hk, Bool.and_false]

end Sys2Proof.Machine
end

section
/-! The index register, and the register block in memory (R192, R195, R196, R73). -/

namespace Sys2Proof.Machine

open Sys2Proof.Spec

/-- Settles O32: the word decodes, and the sum of two words is the sum modulo 65536. -/
theorem addToIndex : Obligations.AddToIndex := by
  unfold Obligations.AddToIndex
  refine fun x s => ⟨decode_of_eq_encode (wordXNN_eq_encodeXNN 0xF#4 x 0x1E#8) rfl, _, rfl, ?_, rfl⟩
  rw [State.setI_i, BitVec.toNat_add, zext16_toNat]

/-- Settles O36: the registers of the block are those up to `VX`, and no other is loaded. -/
theorem registersLoaded : Obligations.RegistersLoaded := by
  unfold Obligations.RegistersLoaded
  refine fun x s => ⟨decode_of_eq_encode (wordXNN_eq_encodeXNN 0xF#4 x 0x65#8) rfl, _, rfl, fun r hr => ?_,
    fun r hr => ?_, State.loadRegs_only_v (regsTo x) s⟩
  · rw [State.loadRegs_reg, if_pos ((mem_regsTo x r).mpr hr), State.indexed_eq_ofNat]
  · rw [State.loadRegs_reg, if_neg fun h => Nat.not_le.mpr hr ((mem_regsTo x r).mp h)]

/-- FX55 leaves `Vr` at `I + r` (R195). -/
theorem State.storeFrom_regsTo_readMem {s : State} (h : s.memory.wf) {x r : Reg} (hr : r ≤ x) :
    (s.storeFrom 0 ((regsTo x).map s.reg)).readMem (BitVec.ofNat 12 (s.i.toNat + r.val)) = s.reg r := by
  have hlen := regsTo_map_length x s.reg
  have hlt : r.val < ((regsTo x).map s.reg).length := by rw [hlen]; exact Nat.lt_succ_of_le hr
  rw [State.storeFrom_zero_readMem_ofNat h (by omega) r.val hlt, List.getElem_map, regsTo_getElem x r.val _ r.isLt]

/-- Settles O35: the instruction stores the registers up to `VX` as one block from `I`. -/
theorem registersStored : Obligations.RegistersStored := by
  unfold Obligations.RegistersStored
  refine fun x s hwf => ⟨decode_of_eq_encode (wordXNN_eq_encodeXNN 0xF#4 x 0x55#8) rfl, _, rfl,
    fun r hr => State.storeFrom_regsTo_readMem hwf hr, fun a ha => ?_, State.storeFrom_only_memory _ s 0⟩
  refine State.storeFrom_zero_readMem_of_ne hwf _ fun k hk => ha k ?_
  rw [regsTo_map_length] at hk
  exact Nat.le_of_lt_succ hk

/-! Fetching what was stored. -/

/-- A running machine runs the word at its `PC`. -/
theorem runsWordAt_fetchedWord {s : State} (h : s.fault = none) : RunsWordAt s (fetchedWord s) := by
  rw [RunsWordAt, ← s.advancePc_eq]
  refine ⟨fun i hi => cycle_of_atInstr ⟨h, hi⟩, fun e he => ?_⟩
  rw [cycle_of_decode_error h he, s.advancePc_eq]
  rfl

/-- With `PC` at two bytes, wherever these are, the word is the first of them times 256 plus the second (R63, R121). -/
theorem runsWordAt_of_bytes {s : State} {n hi lo : Nat} (h : s.fault = none)
    (hhi : (s.readMem (BitVec.ofNat 12 n)).toNat = hi) (hlo : (s.readMem (BitVec.ofNat 12 (n + 1))).toNat = lo) :
    RunsWordAt { s with pc := BitVec.ofNat 16 n } (BitVec.ofNat 16 (hi * 256 + lo)) := by
  have hfirst : BitVec.ofNat 12 (BitVec.ofNat 16 n).toNat = BitVec.ofNat 12 n := BitVec.eq_of_toNat_eq (by simp)
  have hsecond : BitVec.ofNat 12 ((BitVec.ofNat 16 n).toNat + 1) = BitVec.ofNat 12 (n + 1) :=
    BitVec.eq_of_toNat_eq (by
      simp only [BitVec.toNat_ofNat]
      omega)
  have hword : fetchedWord { s with pc := BitVec.ofNat 16 n } = BitVec.ofNat 16 (hi * 256 + lo) := by
    rw [← hhi, ← hlo, ← hfirst, ← hsecond]
    rfl
  exact hword ▸ runsWordAt_fetchedWord h

/-- After FX55, with `PC` at `I + r` for `r < X`, the word is `Vr` times 256 plus `V(r + 1)` (R73). -/
theorem runsWordAt_storedRegs {s : State} (hwf : s.memory.wf) (hfault : s.fault = none) {x : Reg} {r : Nat}
    (hr : r < x.val) (h : r < 16) (h' : r + 1 < 16) :
    RunsWordAt { s.storeFrom 0 ((regsTo x).map s.reg) with pc := BitVec.ofNat 16 (s.i.toNat + r) }
      (BitVec.ofNat 16 ((s.reg ⟨r, h⟩).toNat * 256 + (s.reg ⟨r + 1, h'⟩).toNat)) :=
  runsWordAt_of_bytes ((s.storeFrom_fault 0 _).trans hfault)
    (congrArg BitVec.toNat (State.storeFrom_regsTo_readMem hwf (x := x) (r := ⟨r, h⟩) (Nat.le_of_lt hr)))
    (congrArg BitVec.toNat (State.storeFrom_regsTo_readMem hwf (x := x) (r := ⟨r + 1, h'⟩) hr))

/-- Settles O37: the words stored, at every place of the block, and then the two cases of a block at `PC`. -/
theorem storeIsSeenByFetch : Obligations.StoreIsSeenByFetch := by
  unfold Obligations.StoreIsSeenByFetch
  intro x s hwf hfault
  have hdigit := State.storeFrom_digits_toNat hwf (s.reg x)
  have hrun : (s.storeFrom 0 (digits (s.reg x))).fault = none := (s.storeFrom_fault 0 _).trans hfault
  have hstart : BitVec.ofNat 16 (s.i.toNat + 0) = s.i := by simp
  refine ⟨⟨_, rfl, fun r hr h h' => runsWordAt_storedRegs hwf hfault hr h h'⟩, ⟨_, rfl, ?_, ?_⟩, fun hat hx => ?_⟩
  · have hword := runsWordAt_of_bytes hrun (hdigit 0 (by omega)) (hdigit 1 (by omega))
    rw [hstart] at hword
    exact hword
  · exact runsWordAt_of_bytes hrun (hdigit 1 (by omega)) (hdigit 2 (by omega))
  · have hword := runsWordAt_storedRegs (s := s.advancePc) hwf hfault (x := x) (r := 0) hx (by omega) (by omega)
    rw [s.advancePc_i, hstart] at hword
    refine ⟨_, (cycle_of_atInstr hat).trans rfl, fun r hr => State.storeFrom_regsTo_readMem (s := s.advancePc) hwf hr,
      fun hnext => ?_, fun hself => ?_⟩
    · rw [hnext, ← s.advancePc_pc_eq_ofNat] at hword
      rw [State.storeFrom_only_memory]
      rw [State.storeFrom_only_memory] at hword
      exact hword
    · rw [hself] at hword
      exact hword

end Sys2Proof.Machine
end

section
/-! Drawing (R210, R212, R213): the loops of DXYN as one pass over the cells under the set bits of the sprite. -/

namespace Sys2Proof.Machine

open Sys2Proof.Spec

/-- XOR-plot cell `c`. -/
def plotCell (p : Plot) (c : Fin 64 × Fin 32) : Plot :=
  { display := flipCell p.display c.1 c.2, collision := p.collision || displayCell p.display c.1 c.2 }

/-- Where the sprite bit in column `col` and row `row` lands (R210). -/
def spriteCell (x0 y0 row col : Nat) : Fin 64 × Fin 32 := (Fin.ofNat 64 (x0 + col), Fin.ofNat 32 (y0 + row))

/-- Those of the columns listed whose bit of the sprite row is set. -/
def setColumns (b : Byte) (cols : List Nat) : List Nat := cols.filter fun col => b.getLsbD (7 - col)

/-- The cells under the set bits of one row. -/
def rowCells (rowByte : Nat → Byte) (x0 y0 row : Nat) : List (Fin 64 × Fin 32) :=
  (setColumns (rowByte row) (List.range 8)).map (spriteCell x0 y0 row)

/-- The cells under the set bits of the rows listed. -/
def spriteCells (rowByte : Nat → Byte) (x0 y0 : Nat) (rows : List Nat) : List (Fin 64 × Fin 32) :=
  rows.flatMap (rowCells rowByte x0 y0)

/-! The loops. -/

theorem plotColumns_eq_foldl (b : Byte) (x0 y0 row : Nat) : ∀ (cols : List Nat) (p : Plot),
    plotColumns b x0 (y0 + row) cols p = ((setColumns b cols).map (spriteCell x0 y0 row)).foldl plotCell p
  | [], _ => rfl
  | col :: cols, p => by
    rw [plotColumns, plotColumns_eq_foldl b x0 y0 row cols, setColumns, setColumns, List.filter_cons]
    split <;> rfl

theorem plotRows_eq_foldl (rowByte : Nat → Byte) (x0 y0 : Nat) : ∀ (rows : List Nat) (p : Plot),
    plotRows rowByte x0 y0 rows p = (spriteCells rowByte x0 y0 rows).foldl plotCell p
  | [], _ => rfl
  | row :: rows, p => by
    rw [plotRows, plotRows_eq_foldl rowByte x0 y0 rows, plotColumns_eq_foldl, spriteCells, spriteCells,
      List.flatMap_cons, List.foldl_append]
    rfl

/-! Plotting distinct cells: each of them is flipped once, and meets the cell as it was at the start. -/

theorem displayCell_plotCell (p : Plot) (c : Fin 64 × Fin 32) (cx : Fin 64) (cy : Fin 32) :
    displayCell (plotCell p c).display cx cy = (displayCell p.display cx cy ^^ decide ((cx, cy) = c)) := by
  rw [plotCell, displayCell_flipCell]
  by_cases h : (cx, cy) = c
  · subst h
    simp
  · have hne : ¬ (cx = c.1 ∧ cy = c.2) := fun e => h (Prod.ext e.1 e.2)
    simp [h, hne]

theorem displayCell_foldl_plotCell : ∀ {cells : List (Fin 64 × Fin 32)} (p : Plot), cells.Nodup →
    ∀ cx cy, displayCell (cells.foldl plotCell p).display cx cy =
      (displayCell p.display cx cy ^^ decide ((cx, cy) ∈ cells))
  | [], _, _, _, _ => by simp
  | c :: cells, p, hnodup, cx, cy => by
    obtain ⟨hc, hrest⟩ := List.nodup_cons.mp hnodup
    rw [List.foldl_cons, displayCell_foldl_plotCell _ hrest, displayCell_plotCell]
    by_cases h : (cx, cy) = c
    · simp [h, hc]
    · simp [h]

theorem collision_foldl_plotCell : ∀ {cells : List (Fin 64 × Fin 32)} (p : Plot), cells.Nodup →
    ((cells.foldl plotCell p).collision = true ↔
      p.collision = true ∨ ∃ c ∈ cells, displayCell p.display c.1 c.2 = true)
  | [], _, _ => by simp
  | c :: cells, p, hnodup => by
    obtain ⟨hc, hrest⟩ := List.nodup_cons.mp hnodup
    have hkeep : ∀ d ∈ cells, displayCell (plotCell p c).display d.1 d.2 = displayCell p.display d.1 d.2 := by
      intro d hd
      have hne : (d.1, d.2) ≠ c := fun e => hc (e ▸ hd)
      rw [displayCell_plotCell, decide_eq_false hne, Bool.xor_false]
    have hlater : (∃ d ∈ cells, displayCell (plotCell p c).display d.1 d.2 = true) ↔
        ∃ d ∈ cells, displayCell p.display d.1 d.2 = true :=
      exists_congr fun d => and_congr_right fun hd => by rw [hkeep d hd]
    rw [List.foldl_cons, collision_foldl_plotCell _ hrest, hlater]
    simp [plotCell, or_assoc]

/-! The cells of a sprite are distinct: 8 columns fit in 64, and its rows in 32. -/

theorem spriteCell_inj {x0 y0 row row' col col' : Nat} (hrow : row < 32) (hrow' : row' < 32) (hcol : col < 64)
    (hcol' : col' < 64) (h : spriteCell x0 y0 row col = spriteCell x0 y0 row' col') : row = row' ∧ col = col' := by
  have hx : (x0 + col) % 64 = (x0 + col') % 64 := congrArg (fun c => c.1.val) h
  have hy : (y0 + row) % 32 = (y0 + row') % 32 := congrArg (fun c => c.2.val) h
  omega

theorem mem_rowCells {rowByte : Nat → Byte} {x0 y0 row : Nat} {c : Fin 64 × Fin 32} :
    c ∈ rowCells rowByte x0 y0 row ↔
      ∃ col, (col < 8 ∧ (rowByte row).getLsbD (7 - col) = true) ∧ spriteCell x0 y0 row col = c := by
  simp [rowCells, setColumns]

theorem spriteCells_nodup (rowByte : Nat → Byte) (x0 y0 : Nat) {n : Nat} (hn : n ≤ 32) :
    (spriteCells rowByte x0 y0 (List.range n)).Nodup := by
  refine List.nodup_flatMap.mpr ⟨fun row hrow => ?_, ?_⟩
  · have hrow' := List.mem_range.mp hrow
    refine List.Nodup.map_on (fun col hcol col' hcol' e => ?_) (List.nodup_range.filter _)
    have hlt := List.mem_range.mp (List.mem_of_mem_filter hcol)
    have hlt' := List.mem_range.mp (List.mem_of_mem_filter hcol')
    exact (spriteCell_inj (by omega) (by omega) (by omega) (by omega) e).2
  · refine List.nodup_range.pairwise_of_forall_ne fun row hrow row' hrow' hne => ?_
    have hlt := List.mem_range.mp hrow
    have hlt' := List.mem_range.mp hrow'
    intro c hc hc'
    obtain ⟨col, ⟨hcol, _⟩, rfl⟩ := mem_rowCells.mp hc
    obtain ⟨col', ⟨hcol', _⟩, e⟩ := mem_rowCells.mp hc'
    exact hne (spriteCell_inj (by omega) (by omega) (by omega) (by omega) e.symm).1

/-! The sprite of DXYN. -/

/-- The cells plotted are those the sprite covers. -/
theorem mem_spriteCells_iff_covers (s : State) (x0 y0 : Byte) (n : Nat) (cx : Fin 64) (cy : Fin 32) :
    (cx, cy) ∈ spriteCells (fun row => s.readMem (s.indexed row)) x0.toNat y0.toNat (List.range n) ↔
      Covers s x0 y0 n cx cy := by
  simp [spriteCells, mem_rowCells, Covers, spriteCell, Prod.ext_iff, Fin.ext_iff, and_assoc]

theorem State.plotSprite_cell (s : State) (x0 y0 : Byte) {n : Nat} (hn : n ≤ 32) (cx : Fin 64) (cy : Fin 32) :
    displayCell (s.plotSprite x0 y0 n).display cx cy = true ↔ ¬ (s.cell cx cy = true ↔ Covers s x0 y0 n cx cy) := by
  rw [State.plotSprite, plotRows_eq_foldl, displayCell_foldl_plotCell _ (spriteCells_nodup _ _ _ hn),
    ← mem_spriteCells_iff_covers, State.cell]
  cases displayCell s.display cx cy <;> simp

theorem State.plotSprite_collision (s : State) (x0 y0 : Byte) {n : Nat} (hn : n ≤ 32) :
    (s.plotSprite x0 y0 n).collision = true ↔ ∃ cx cy, Covers s x0 y0 n cx cy ∧ s.cell cx cy = true := by
  rw [State.plotSprite, plotRows_eq_foldl, collision_foldl_plotCell _ (spriteCells_nodup _ _ _ hn)]
  simp only [Prod.exists, mem_spriteCells_iff_covers, State.cell, Bool.false_eq_true, false_or]

/-- Settles O39: the display and the collision are those of the cells the sprite covers, and VF is the collision. -/
theorem drawIsXorWithWrappedSprite : Obligations.DrawIsXorWithWrappedSprite := by
  unfold Obligations.DrawIsXorWithWrappedSprite
  intro x y n s
  have hn : n.toNat ≤ 32 := by omega
  have hcollision := s.plotSprite_collision (s.reg x) (s.reg y) hn
  refine ⟨decode_of_eq_encode (wordXYN_eq_encodeXYN 0xD#4 x y n) rfl, _, rfl,
    s.plotSprite_cell (s.reg x) (s.reg y) hn, fun hhit => ?_, fun hmiss => ?_, rfl,
    fun r hr => s.setReg_reg_of_ne _ hr, rfl⟩
  · rw [State.showDisplay_reg, State.setReg_reg_self, hcollision.mpr hhit]
    rfl
  · rw [State.showDisplay_reg, State.setReg_reg_self, Bool.eq_false_iff.mpr (mt hcollision.mp hmiss)]
    rfl

/-- Settles O40: the second draw covers the same cells, so that it flips each back, and meets a 1 where the first met
a 0. -/
theorem drawTwiceRestoresDisplay : Obligations.DrawTwiceRestoresDisplay := by
  unfold Obligations.DrawTwiceRestoresDisplay
  intro x y n s t hfirst hx hy
  obtain ⟨_, t', ht', hcell, _, _, _, _, hframe⟩ := drawIsXorWithWrappedSprite x y n s
  cases hfirst.symm.trans ht'
  obtain ⟨_, u, hu, hcell', hhit, hmiss, _, _, _⟩ := drawIsXorWithWrappedSprite x y n t
  have hcovers (cx : Fin 64) (cy : Fin 32) :
      Covers t (t.reg x) (t.reg y) n.toNat cx cy ↔ Covers s (s.reg x) (s.reg y) n.toNat cx cy := by
    rw [hx, hy, hframe]
    rfl
  simp only [hcovers] at hcell' hhit hmiss
  refine ⟨u, hu, display_ext fun cx cy => ?_, ?_⟩
  · have hback : u.cell cx cy = true ↔ s.cell cx cy = true := by
      rw [hcell', hcell]
      tauto
    exact Bool.eq_iff_iff.mpr hback
  · have hsecond : (∃ cx cy, Covers s (s.reg x) (s.reg y) n.toNat cx cy ∧ t.cell cx cy = true) ↔
        ∃ cx cy, Covers s (s.reg x) (s.reg y) n.toNat cx cy ∧ s.cell cx cy = false :=
      exists_congr fun cx => exists_congr fun cy => and_congr_right fun hc => by
        rw [hcell]
        simp [hc]
    rw [← hsecond]
    refine ⟨fun hone => ?_, hhit⟩
    by_contra hnone
    rw [hmiss hnone] at hone
    exact absurd hone (by decide)

end Sys2Proof.Machine
end

section
/-! The keypad and the timer registers (R230 to R236). -/

namespace Sys2Proof.Machine

open Sys2Proof.Spec

theorem keyIndex_eq {b : Byte} {k : Key} (h : b.toNat % 16 = k.val) : keyIndex b = k := Fin.ext h

theorem keyByte_toNat (k : Key) : (keyByte k).toNat = k.val := by
  have := k.isLt
  rw [keyByte, BitVec.toNat_ofNat]
  omega

/-- Settles O41: the two are skips on the key named and on its complement. -/
theorem keySkips : Obligations.KeySkips := by
  unfold Obligations.KeySkips
  intro x k s hk
  refine ⟨decode_of_eq_encode (wordXNN_eq_encodeXNN 0xE#4 x 0x9E#8) rfl,
    decode_of_eq_encode (wordXNN_eq_encodeXNN 0xE#4 x 0xA1#8) rfl,
    _, _, rfl, rfl, s.skipIf_only_pc _, s.skipIf_only_pc _, ?_, ?_⟩
  · rw [s.skipIf_pc_toNat, keyIndex_eq hk]
  · rw [s.skipIf_pc_toNat, keyIndex_eq hk]
    cases s.keyDown k <;> rfl

/-- With no key down FX0A takes back the pre-increment (R233 (a)). -/
theorem exec_ldVxK_of_no_key (x : Reg) {s : State} (h : ∀ k, s.keyDown k = false) :
    exec (.ldVxK x) s = .next s.retreatPc := by
  obtain ⟨_, hexec⟩ | ⟨k, _, hk, _⟩ := execLdVxK_cases x s
  · exact hexec
  · rw [s.keysDown_eq_nil_iff.mpr h] at hk
    cases hk

theorem State.advancePc_retreatPc (s : State) : s.advancePc.retreatPc = s := by
  have hpc : s.pc + 2 - 2 = s.pc := BitVec.add_sub_cancel s.pc 2
  rw [State.retreatPc, State.advancePc_pc, hpc]
  rfl

/-- Settles O42: the wait takes back the pre-increment, and otherwise a key of those down is stored. -/
theorem keyWait : Obligations.KeyWait := by
  unfold Obligations.KeyWait
  intro x s
  refine ⟨decode_of_eq_encode (wordXNN_eq_encodeXNN 0xF#4 x 0x0A#8) rfl,
    fun hnone => ⟨exec_ldVxK_of_no_key x hnone, fun hat => ?_⟩, fun hsome => ?_⟩
  · rw [cycle_of_atInstr hat, exec_ldVxK_of_no_key x (s := s.advancePc) hnone, s.advancePc_retreatPc]
  · obtain ⟨hempty, _⟩ | ⟨k, n, hk, hexec⟩ := execLdVxK_cases x s
    · obtain ⟨k, hk⟩ := hsome
      simp [s.keysDown_eq_nil_iff.mp hempty k] at hk
    · have hdown : s.keyDown k = true := (s.mem_keysDown k).mp hk
      have hreg : (s.setReg x (keyByte k)).reg x = keyByte k := s.setReg_reg_self x (keyByte k)
      exact ⟨_, k, hexec, hdown, (congrArg BitVec.toNat hreg).trans (keyByte_toNat k),
        fun j honly => (honly k).mp hdown, rfl, fun r hr => s.setReg_reg_of_ne (keyByte k) hr⟩

/-- Settles O43: the instruction is one register write, of the timer. -/
theorem readDelayTimer : Obligations.ReadDelayTimer := by
  unfold Obligations.ReadDelayTimer
  exact fun x s => ⟨decode_of_eq_encode (wordXNN_eq_encodeXNN 0xF#4 x 0x07#8) rfl, _, rfl,
    s.setReg_reg_self x s.dt, s.setReg_onlyRegs x s.dt⟩

/-- Settles O44: each instruction is the write of one timer. -/
theorem writeTimers : Obligations.WriteTimers := by
  unfold Obligations.WriteTimers
  exact fun x s => ⟨decode_of_eq_encode (wordXNN_eq_encodeXNN 0xF#4 x 0x15#8) rfl,
    decode_of_eq_encode (wordXNN_eq_encodeXNN 0xF#4 x 0x18#8) rfl, rfl, rfl⟩

end Sys2Proof.Machine
end
